-- ==== Sys2Proof/Word.lean ====
section
/-! DEFINITION. The word types of the QRGF unit: the 32-bit register and command word (rules R30, R80), the byte
(a field element, a codeword; rules R33, R37) and the UTF-16 code unit (rule R36). -/

namespace Sys2Proof

/-- A scalar register, a control register or a command word: XLEN = 32 bits (rules R30, R46, R80). -/
abbrev Word := BitVec 32

/-- A byte: a field element, a segment byte, a codeword (rules R33, R35, R37, R38, R40). -/
abbrev Byte := BitVec 8

/-- One UTF-16 code unit of the text buffer (rule R36). -/
abbrev CodeUnit := BitVec 16

end Sys2Proof
end

