-- ==== Sys2Proof/Config.lean ====
section
/-! DEFINITION. What an implementation of the unit fixes: the sizes of rule R9, the shape of the read-only
tables (rules R20 to R27; their contents stand in Machine/Rom.lean), and the free values, which the spec leaves
unspecified (rule R359). A free value is an opaque constant: nothing can be proved of it but its type. -/

namespace Sys2Proof.Config

/-! ## Sizes (rule R9; the defaults of the table, log entry 3) -/

/-- NXREG: the number of scalar registers. -/
abbrev nXReg : Nat := 16
/-- NPREG: the number of polynomial registers. -/
abbrev nPReg : Nat := 4
/-- POLY_MAX: the longest polynomial a register holds, and the capacity of STG. -/
abbrev polyMax : Nat := 256
/-- TXT_MAX: the capacity of TXT in code units. -/
abbrev txtMax : Nat := 4096
/-- SEG_MAX = 3 * TXT_MAX + 3: the capacity of SEG in bytes. -/
abbrev segMax : Nat := 12291
/-- BB_MAX_BYTES = SEG_MAX + 3: the capacity of the bit buffer in bytes. -/
abbrev bbMaxBytes : Nat := 12294
/-- CW_MAX: the capacity of CW in bytes. -/
abbrev cwMax : Nat := 3706
/-- BLK_MAX: the capacity of BLK in entries. -/
abbrev blkMax : Nat := 81
/-- GRID_MAX: the largest side of a grid (version 40). -/
abbrev gridMax : Nat := 177
/-- The number of control and status registers (rule R46: numbers 0 to 16). -/
abbrev nCsr : Nat := 17

/-! ## The read-only tables -/

/-- A group descriptor of a cell of RS_BLOCK_TABLE: `blockCount` blocks of `totalCodewords` codewords each, of
which `dataCodewords` are data (rule R24). -/
structure BlockGroup where
  blockCount : Nat
  totalCodewords : Nat
  dataCodewords : Nat
  deriving DecidableEq, Repr

/-- ROM as far as a model takes it as configuration (rules R9, R20, R23 to R27, R266). The functions of the
model that read a table take a `Rom`; `exec` gives them the one of Machine/Rom.lean. EXP and LOG and the printed
constants G15, padding and byte-order mark are fixed by the source and stand there as plain definitions. -/
structure Rom where
  /-- G15_MASK, 15 bits (rule R23). -/
  g15Mask : Nat
  /-- G18, 13 bits (rule R23). -/
  g18 : Nat
  /-- RS_BLOCK_TABLE, indexed by `(version-1)*4 + levelIndex` (rule R24). -/
  rsBlock : List (List BlockGroup)
  /-- PATTERN_POSITION_TABLE, indexed by `version-1` (rule R25). -/
  patternPosition : List (List Nat)
  /-- CAPACITY_TABLE, indexed by `version-1`, then by the level index (rule R26). -/
  capacity : List (List Nat)
  /-- FMT_LEVEL_CODE, indexed by the level index (rule R262). -/
  fmtLevelCode : List Nat
  /-- MODE_BYTE (rule R157). -/
  modeByte : Nat
  /-- LENGTH_BITS, indexed by `version-1` (rule R156). -/
  lengthBits : List Nat
  /-- VERINFO_BLANK_IN_TEST (rule R266). -/
  verInfoBlankInTest : Bool
  deriving DecidableEq, Repr

/-! ## Free values (rule R359)

The first argument is the epoch, `State.freeIdx` at the moment the value arises, so that two events give
unrelated values, and the reads between two events give one (rule R62); the last is an index inside the space. -/

/-- `ROM.LOG[0]`, which no command reads (rules R22, R359(c)). -/
opaque freeLogZero : Byte
/-- Scalar register `i` after a hardware reset (rules R57, R359(a)). -/
opaque freeX : Nat → Nat → Word
/-- Element `i` of STG after a hardware reset (rules R57, R359(b)). -/
opaque freeStg : Nat → Nat → Byte
/-- Element `i` of TXT after a hardware reset (rules R57, R359(b)). -/
opaque freeTxt : Nat → Nat → CodeUnit
/-- Element `i` of SEG after a hardware reset, or after a composite command that writes SEG faulted
(rules R57, R330(b), R359(b) and (d)). -/
opaque freeSeg : Nat → Nat → Byte
/-- SEGLEN after a composite command that writes SEG faulted (rules R330(b), R359(d)). -/
opaque freeSegLen : Nat → Nat
/-- Bit `i` of the bit buffer after a composite command that writes BB faulted (rules R330(b), R359(d)). -/
opaque freeBbBit : Nat → Nat → Bool
/-- BBLEN after a composite command that writes BB faulted (rules R330(b), R359(d)). -/
opaque freeBbLen : Nat → Nat
/-- Byte `i` of CW after a composite command that writes CW faulted (rules R330(b), R359(d)). -/
opaque freeCw : Nat → Nat → Byte
/-- CWLEN after a composite command that writes CW faulted (rules R330(b), R359(d)). -/
opaque freeCwLen : Nat → Nat
/-- What a host read answers at an index within the capacity that is not part of the value of polynomial register
`k`: epoch, `k`, index (rule R359(e)). -/
opaque freeReadP : Nat → Nat → Nat → Byte
/-- What a host read answers behind the bytes of BB in use (rule R359(e)). -/
opaque freeReadBb : Nat → Nat → Byte
/-- What a host read answers at or beyond CWLEN (rule R359(e)). -/
opaque freeReadCw : Nat → Nat → Byte
/-- What a host read answers at or beyond STGLEN (rule R359(b)). -/
opaque freeReadStg : Nat → Nat → Byte
/-- What a host read answers at or beyond TXTLEN (rule R359(b)). -/
opaque freeReadTxt : Nat → Nat → CodeUnit
/-- What a host read answers at or beyond SEGLEN (rule R359(b)). -/
opaque freeReadSeg : Nat → Nat → Byte
/-- The total count a host read of an entry of BLK at or beyond NBLK answers (rule R359(e)). -/
opaque freeTotalCount : Nat → Nat → Byte
/-- The data count a host read of an entry of BLK at or beyond NBLK answers (rule R359(e)). -/
opaque freeDataCount : Nat → Nat → Byte

end Sys2Proof.Config
end

