-- ==== Sys2Proof/Syntax.lean ====
section
/-! DEFINITION. The command set: one constructor per row of spec/opcode_table.json (rule R85), with the operands
its format carries (rules R81 to R84), in the assembler's operand order (rule R88). -/

namespace Sys2Proof

/-- A scalar register number, `x0` to `x15` (rule R84: all 16 values are legal). -/
abbrev XReg := Fin 16

/-- A polynomial register number, `p0` to `p3` (rule R84). -/
abbrev PReg := Fin 4

/-- The commands of rule R85. `test` and `mask` are `imm8[7]` and `imm8[3:0]` of formats M and M0 (rule R83). -/
inductive Instr where
  | nop
  | set (ra : XReg) (imm16 : BitVec 16)
  | reset
  | csrr (ra : XReg) (csr : BitVec 16)
  | csrw (csr : BitVec 16) (ra : XReg)
  | gfLog (rd ra : XReg)
  | gfExp (rd ra : XReg)
  | polyNew (pd : PReg) (shift : BitVec 8)
  | polyMul (pd pa pb : PReg)
  | polyMod (pd pa pb : PReg)
  | polyLen (rd : XReg) (pa : PReg)
  | polyGet (rd : XReg) (pa : PReg) (rb : XReg)
  | bbClr
  | bbPut (ra rb : XReg)
  | bbPutbit (ra : XReg)
  | bbGet (rd ra : XReg)
  | segEnc
  | segLen (rd : XReg)
  | segWrite
  | utf8Len (rd : XReg)
  | dataSeg
  | dataFin
  | verSel (rd ra : XReg)
  | rsBlocks
  | rsGen (pd : PReg) (ecCount : BitVec 8)
  | rsEnc
  | bchFmt (rd ra : XReg)
  | bchVer (rd ra : XReg)
  | bchDigit (rd ra : XReg)
  | maskTst (rd ra rb rc : XReg)
  | score
  | gridInit
  | gridStruct (test : Bool) (mask : BitVec 4)
  | gridMap (mask : BitVec 4)
  | gridFin
  | makeimpl (test : Bool) (mask : BitVec 4)
  | make
  | qCount (rd : XReg)
  | qDark (rd ra rb : XReg)
  deriving DecidableEq, Repr

end Sys2Proof
end

