-- ==== Sys2Proof/WellFormed.lean ====
section
/-! DEFINITION. Which commands are well formed: their immediate fields name something. The register fields are
in range by their types. A command that is not well formed still decodes and encodes; at execution it raises the
fault its rule names (rules R83, R87), so nothing of the machine depends on this file. -/

namespace Sys2Proof

/-- The CSR numbers that exist (rule R46). -/
def csrExists (n : Nat) : Bool := n < Config.nCsr

/-- The CSR numbers `CSRW` may write: VERSION, LEVEL, TXTLEN, SEGLEN, STGLEN (rules R46, R304). -/
def csrWritable (n : Nat) : Bool := n == 4 || n == 5 || n == 12 || n == 13 || n == 15

/-- The mask patterns that exist (rules R83, R215). -/
def patternExists (mask : BitVec 4) : Bool := mask.toNat < 8

/-- A command whose CSR number exists and may be accessed so, and whose mask pattern exists. -/
def Instr.wellFormed : Instr → Bool
  | .csrr _ csr => csrExists csr.toNat
  | .csrw csr _ => csrWritable csr.toNat
  | .gridStruct _ mask => patternExists mask
  | .gridMap mask => patternExists mask
  | .makeimpl _ mask => patternExists mask
  | .nop | .set _ _ | .reset | .gfLog _ _ | .gfExp _ _ | .polyNew _ _ | .polyMul _ _ _ | .polyMod _ _ _
  | .polyLen _ _ | .polyGet _ _ _ | .bbClr | .bbPut _ _ | .bbPutbit _ | .bbGet _ _ | .segEnc | .segLen _
  | .segWrite | .utf8Len _ | .dataSeg | .dataFin | .verSel _ _ | .rsBlocks | .rsGen _ _ | .rsEnc | .bchFmt _ _
  | .bchVer _ _ | .bchDigit _ _ | .maskTst _ _ _ _ | .score | .gridInit | .gridFin | .make | .qCount _
  | .qDark _ _ _ => true

end Sys2Proof
end

