-- ==== Sys2Proof/Decode.lean ====
section
/-! DEFINITION. The command encoding (rules R80 to R87): the fields of a command word, the masks of the formats,
the decoder, total on every 32-bit word and rejecting by name, and the encoder, written from the same tables. -/

namespace Sys2Proof

/-! ## Fields (rule R81) -/

/-- `op = W[31:24]`. -/
def opField (w : Word) : BitVec 8 := w.extractLsb' 24 8
/-- `ra = W[23:20]`. -/
def raField (w : Word) : BitVec 4 := w.extractLsb' 20 4
/-- `rb = W[19:16]`. -/
def rbField (w : Word) : BitVec 4 := w.extractLsb' 16 4
/-- `rc = W[15:12]`. -/
def rcField (w : Word) : BitVec 4 := w.extractLsb' 12 4
/-- `rd = W[11:8]`. -/
def rdField (w : Word) : BitVec 4 := w.extractLsb' 8 4
/-- `imm8 = W[7:0]`. -/
def imm8Field (w : Word) : BitVec 8 := w.extractLsb' 0 8
/-- `imm16 = W[15:0]`. -/
def imm16Field (w : Word) : BitVec 16 := w.extractLsb' 0 16
/-- `test = imm8[7]` of format M (rule R83). -/
def testField (w : Word) : Bool := w.getLsbD 7
/-- `mask = imm8[3:0]` of formats M and M0 (rule R83). -/
def maskField (w : Word) : BitVec 4 := w.extractLsb' 0 4

/-- A scalar register operand: the whole field (rule R84). -/
def xOperand (f : BitVec 4) : XReg := Fin.ofNat 16 f.toNat
/-- A polynomial register operand: the low 2 bits of the field (rule R84). -/
def pOperand (f : BitVec 4) : PReg := Fin.ofNat 4 f.toNat

/-! ## Formats (rule R82) -/

/-- The fourteen formats. -/
inductive Format where
  | Z | D | A | DA | AB | DAB | DABC | I | PI | PAB | DP | DPB | M | M0
  deriving DecidableEq, Repr

/-- The mask of a format: `op` and the must-be-zero bits (rule R82's table). -/
def Format.mask : Format → Word
  | .Z => 0xFFFFFFFF
  | .D => 0xFFFFF0FF
  | .A => 0xFF0FFFFF
  | .DA => 0xFF0FF0FF
  | .AB => 0xFF00FFFF
  | .DAB => 0xFF00F0FF
  | .DABC => 0xFF0000FF
  | .I => 0xFF0F0000
  | .PI => 0xFFFFFC00
  | .PAB => 0xFFCCFCFF
  | .DP => 0xFFCFF0FF
  | .DPB => 0xFFC0F0FF
  | .M => 0xFFFFFF70
  | .M0 => 0xFFFFFFF0

/-! ## Decoding (rules R85, R86, R92 step 2) -/

/-- Why a word is no command (rule R86): its operation code is in no row of the map, or a must-be-zero bit of
its row's format is 1. Either way the unit raises `IllegalCommand`. -/
inductive DecodeReject where
  | unassignedOp (op : BitVec 8)
  | mustBeZeroBits (op : BitVec 8)
  deriving DecidableEq, Repr

/-- A word selects the row of operation code `op` and format `f` when `W & mask == op << 24` (rule R82). -/
def Format.selects (f : Format) (op : BitVec 8) (w : Word) : Bool :=
  w &&& f.mask == (op.setWidth 32) <<< 24

/-- Accept `i` if the word selects its row under the row's mask. -/
def acceptRow (f : Format) (w : Word) (i : Instr) : Except DecodeReject Instr :=
  if f.selects (opField w) w then .ok i else .error (.mustBeZeroBits (opField w))

/-- The decoder: rule R85's map, row by row. -/
def decode (w : Word) : Except DecodeReject Instr :=
  let xa := xOperand (raField w)
  let xb := xOperand (rbField w)
  let xc := xOperand (rcField w)
  let xd := xOperand (rdField w)
  let pa := pOperand (raField w)
  let pb := pOperand (rbField w)
  let pd := pOperand (rdField w)
  let imm8 := imm8Field w
  let imm16 := imm16Field w
  match (opField w).toNat with
  | 0x00 => acceptRow .Z w .nop
  | 0x01 => acceptRow .I w (.set xa imm16)
  | 0x02 => acceptRow .Z w .reset
  | 0x03 => acceptRow .I w (.csrr xa imm16)
  | 0x04 => acceptRow .I w (.csrw imm16 xa)
  | 0x10 => acceptRow .DA w (.gfLog xd xa)
  | 0x11 => acceptRow .DA w (.gfExp xd xa)
  | 0x20 => acceptRow .PI w (.polyNew pd imm8)
  | 0x21 => acceptRow .PAB w (.polyMul pd pa pb)
  | 0x22 => acceptRow .PAB w (.polyMod pd pa pb)
  | 0x23 => acceptRow .DP w (.polyLen xd pa)
  | 0x24 => acceptRow .DPB w (.polyGet xd pa xb)
  | 0x30 => acceptRow .Z w .bbClr
  | 0x31 => acceptRow .AB w (.bbPut xa xb)
  | 0x32 => acceptRow .A w (.bbPutbit xa)
  | 0x33 => acceptRow .DA w (.bbGet xd xa)
  | 0x34 => acceptRow .Z w .segEnc
  | 0x35 => acceptRow .D w (.segLen xd)
  | 0x36 => acceptRow .Z w .segWrite
  | 0x37 => acceptRow .D w (.utf8Len xd)
  | 0x38 => acceptRow .Z w .dataSeg
  | 0x39 => acceptRow .Z w .dataFin
  | 0x3A => acceptRow .DA w (.verSel xd xa)
  | 0x40 => acceptRow .Z w .rsBlocks
  | 0x41 => acceptRow .PI w (.rsGen pd imm8)
  | 0x42 => acceptRow .Z w .rsEnc
  | 0x50 => acceptRow .DA w (.bchFmt xd xa)
  | 0x51 => acceptRow .DA w (.bchVer xd xa)
  | 0x52 => acceptRow .DA w (.bchDigit xd xa)
  | 0x53 => acceptRow .DABC w (.maskTst xd xa xb xc)
  | 0x54 => acceptRow .Z w .score
  | 0x60 => acceptRow .Z w .gridInit
  | 0x61 => acceptRow .M w (.gridStruct (testField w) (maskField w))
  | 0x62 => acceptRow .M0 w (.gridMap (maskField w))
  | 0x63 => acceptRow .Z w .gridFin
  | 0x64 => acceptRow .M w (.makeimpl (testField w) (maskField w))
  | 0x65 => acceptRow .Z w .make
  | 0x66 => acceptRow .D w (.qCount xd)
  | 0x67 => acceptRow .DAB w (.qDark xd xa xb)
  | _ => .error (.unassignedOp (opField w))

/-! ## Encoding -/

/-- A word from its six fields, the fields of rule R81 side by side. -/
def packFields (op : BitVec 8) (ra rb rc rd : BitVec 4) (imm8 : BitVec 8) : Word :=
  op ++ ra ++ rb ++ rc ++ rd ++ imm8

/-- A word of format I: `op`, `ra`, a zero `rb`, `imm16` (rules R81, R82). -/
def packImm16 (op : BitVec 8) (ra : BitVec 4) (imm16 : BitVec 16) : Word :=
  op ++ ra ++ (0 : BitVec 4) ++ imm16

/-- A scalar register number as a field. -/
def xBits (r : XReg) : BitVec 4 := BitVec.ofNat 4 r.val
/-- A polynomial register number as a field, its high 2 bits zero (rule R84). -/
def pBits (r : PReg) : BitVec 4 := BitVec.ofNat 4 r.val
/-- `imm8` of format M: `test` in bit 7, `mask` in bits 3 to 0 (rule R83). -/
def testMaskBits (test : Bool) (mask : BitVec 4) : BitVec 8 := BitVec.ofBool test ++ (0 : BitVec 3) ++ mask

/-- The words of a command (rules R81 to R85). -/
def encode : Instr → Word
  | .nop => packFields 0x00 0 0 0 0 0
  | .set ra imm16 => packImm16 0x01 (xBits ra) imm16
  | .reset => packFields 0x02 0 0 0 0 0
  | .csrr ra csr => packImm16 0x03 (xBits ra) csr
  | .csrw csr ra => packImm16 0x04 (xBits ra) csr
  | .gfLog rd ra => packFields 0x10 (xBits ra) 0 0 (xBits rd) 0
  | .gfExp rd ra => packFields 0x11 (xBits ra) 0 0 (xBits rd) 0
  | .polyNew pd shift => packFields 0x20 0 0 0 (pBits pd) shift
  | .polyMul pd pa pb => packFields 0x21 (pBits pa) (pBits pb) 0 (pBits pd) 0
  | .polyMod pd pa pb => packFields 0x22 (pBits pa) (pBits pb) 0 (pBits pd) 0
  | .polyLen rd pa => packFields 0x23 (pBits pa) 0 0 (xBits rd) 0
  | .polyGet rd pa rb => packFields 0x24 (pBits pa) (xBits rb) 0 (xBits rd) 0
  | .bbClr => packFields 0x30 0 0 0 0 0
  | .bbPut ra rb => packFields 0x31 (xBits ra) (xBits rb) 0 0 0
  | .bbPutbit ra => packFields 0x32 (xBits ra) 0 0 0 0
  | .bbGet rd ra => packFields 0x33 (xBits ra) 0 0 (xBits rd) 0
  | .segEnc => packFields 0x34 0 0 0 0 0
  | .segLen rd => packFields 0x35 0 0 0 (xBits rd) 0
  | .segWrite => packFields 0x36 0 0 0 0 0
  | .utf8Len rd => packFields 0x37 0 0 0 (xBits rd) 0
  | .dataSeg => packFields 0x38 0 0 0 0 0
  | .dataFin => packFields 0x39 0 0 0 0 0
  | .verSel rd ra => packFields 0x3A (xBits ra) 0 0 (xBits rd) 0
  | .rsBlocks => packFields 0x40 0 0 0 0 0
  | .rsGen pd ecCount => packFields 0x41 0 0 0 (pBits pd) ecCount
  | .rsEnc => packFields 0x42 0 0 0 0 0
  | .bchFmt rd ra => packFields 0x50 (xBits ra) 0 0 (xBits rd) 0
  | .bchVer rd ra => packFields 0x51 (xBits ra) 0 0 (xBits rd) 0
  | .bchDigit rd ra => packFields 0x52 (xBits ra) 0 0 (xBits rd) 0
  | .maskTst rd ra rb rc => packFields 0x53 (xBits ra) (xBits rb) (xBits rc) (xBits rd) 0
  | .score => packFields 0x54 0 0 0 0 0
  | .gridInit => packFields 0x60 0 0 0 0 0
  | .gridStruct test mask => packFields 0x61 0 0 0 0 (testMaskBits test mask)
  | .gridMap mask => packFields 0x62 0 0 0 0 (testMaskBits false mask)
  | .gridFin => packFields 0x63 0 0 0 0 0
  | .makeimpl test mask => packFields 0x64 0 0 0 0 (testMaskBits test mask)
  | .make => packFields 0x65 0 0 0 0 0
  | .qCount rd => packFields 0x66 0 0 0 (xBits rd) 0
  | .qDark rd ra rb => packFields 0x67 (xBits ra) (xBits rb) 0 (xBits rd) 0

/-! ## The host's reading of a table word -/

/-- The command word whose bits are the low `nbits` bits of `w`, every bit above them 0. A command word is passed
whole (rules R67, R80), so no byte order arises. -/
def tableWord (nbits w : Nat) : Word := BitVec.ofNat 32 (w % 2 ^ nbits)

/-- What the decoder reads from the table word `w` of `nbits` bits. -/
def decodeTableWord (nbits w : Nat) : Option Instr :=
  match decode (tableWord nbits w) with
  | .ok i => some i
  | .error _ => none

end Sys2Proof
end

