-- ==== Sys2Proof/Machine/State.lean ====
section
/-! DEFINITION. The state of the QRGF unit (rule R20: X, P, STG, TXT, SEG, BB, BLK, CW, GRID and the control
registers; ROM is configuration), the host's transactions waiting at its port (rules R61, R73), the reasons a step
can stop, and the state after reset (rules R57, R350). -/

namespace Sys2Proof.Machine

/-! ## The parts of the state -/

/-- A cell of the module grid (rule R41). -/
inductive GridCell where
  | unset | dark | light
  deriving DecidableEq, Repr

/-- The module grid: its rows, top row first, each from column 0 (rules R17, R41). Only the cells inside the side
in force exist, so the list has MODCNT rows of MODCNT cells; it is empty when no grid is allocated. -/
abbrev Grid := List (List GridCell)

/-- The orchestrator's states (rule R50). -/
inductive Phase where
  | empty | structuralPatternsPlaced | dataMapped | finalized
  deriving DecidableEq, Repr

/-- The eleven fault causes (rule R320). -/
inductive Cause where
  | logZero | maskPattern | coordinate | rsBlock | dataOverflow | tooLongData | tableEntryMissing
  | illegalCommand | sequenceError | operandRange | bufferLimit
  deriving DecidableEq, Repr

/-- A polynomial: its coefficients, highest-degree term first (rules R12, R33). -/
abbrev Poly := List Byte

/-- The bit buffer's value: the bytes in use and the bit length BBLEN (rules R38, R140). -/
structure BitBuffer where
  bytes : List Byte
  len : Nat
  deriving DecidableEq, Repr

/-- An ErrorCorrectionBlock (rule R39), an entry of BLK: the pair (totalCount, dataCount). `errorCount` is derived. -/
structure RsBlock where
  totalCount : Nat
  dataCount : Nat
  deriving DecidableEq, Repr

/-- The contents of an element-addressed space (rule R60): a list of (index, element) in one canonical form,
indices strictly rising, no entry equal to what an unlisted index reads as (`Memory.wf`, Machine/Ops.lean). -/
abbrev Memory (width : Nat) := List (Nat × BitVec width)

/-! ## The host's side (rules R60, R61) -/

/-- The spaces the host can name in a read (rule R60). -/
inductive Space where
  | x | csr | p (k : PReg) | stg | txt | seg | bb | blk | cw | grid | rom
  deriving DecidableEq, Repr

/-- The spaces in which the host may write no element (rule R60). -/
inductive ReadOnlySpace where
  | p (k : PReg) | bb | blk | cw | grid | rom
  deriving DecidableEq, Repr

/-- One atomic host transaction (rule R61), or a hardware reset (rule R350). A written value has the element type
of its space (rule R358(c)). -/
inductive HostTxn where
  /-- `HostIssue(word)`. -/
  | issue (w : Word)
  /-- `HostRead(space, index)`. -/
  | read (sp : Space) (index : Nat)
  /-- `HostWrite(X, index, value)`. -/
  | writeX (index : Nat) (value : Word)
  /-- `HostWrite(CSR, index, value)`. -/
  | writeCsr (index : Nat) (value : Word)
  /-- `HostWrite(STG, index, value)`. -/
  | writeStg (index : Nat) (value : Byte)
  /-- `HostWrite(TXT, index, value)`. -/
  | writeTxt (index : Nat) (value : CodeUnit)
  /-- `HostWrite(SEG, index, value)`. -/
  | writeSeg (index : Nat) (value : Byte)
  /-- A `HostWrite` to a space that takes none; it is refused (rule R69). -/
  | writeReadOnly (sp : ReadOnlySpace) (index : Nat) (value : Word)
  /-- The reset input (rule R350). -/
  | hardwareReset
  deriving DecidableEq, Repr

/-- What the last transaction answered the host: nothing (a write, an issue, a refused access), one element
(zero-extended to 32 bits), or an entry of BLK. -/
inductive Reply where
  | none
  | element (v : Word)
  | block (b : RsBlock)
  deriving DecidableEq, Repr

/-! ## The state -/

/-- The state of the unit and of its host port. CWLEN and NBLK are the lengths of `cw` and `blk`, BBLEN is
`bb.len`, and the length of a polynomial register is its list's length, so each is stored once. -/
structure State where
  /-- X: the scalar registers `x0` to `x15` (rule R30). -/
  x : Vector Word 16
  /-- P: the polynomial registers `p0` to `p3` (rule R33). -/
  p : Vector Poly 4
  /-- STG: the staging buffer's elements (rule R35). -/
  stg : Memory 8
  /-- CSR 15, STGLEN (rule R53). -/
  stgLen : Nat
  /-- TXT: the text's code units (rule R36). -/
  txt : Memory 16
  /-- CSR 12, TXTLEN (rule R53). -/
  txtLen : Nat
  /-- SEG: the byte segment's elements (rule R37). -/
  seg : Memory 8
  /-- CSR 13, SEGLEN (rule R53). -/
  segLen : Nat
  /-- BB and CSR 11, BBLEN (rules R38, R53). -/
  bb : BitBuffer
  /-- BLK and CSR 16, NBLK (rules R39, R53). -/
  blk : List RsBlock
  /-- CW and CSR 14, CWLEN (rules R40, R53). -/
  cw : List Byte
  /-- GRID (rule R41). -/
  grid : Grid
  /-- CSR 8, MODCNT (rule R51). -/
  modCnt : Nat
  /-- STATUS.FAULT (rule R54). -/
  fault : Bool
  /-- STATUS.FINAL (rule R56). -/
  final : Bool
  /-- STATUS.DCVALID (rule R55). -/
  dcValid : Bool
  /-- STATUS.TESTF (rule R56). -/
  testF : Bool
  /-- CSR 1, CAUSE: none is code 0 (rules R54, R320). -/
  cause : Option Cause
  /-- CSR 2, FINFO (rule R54). -/
  finfo : Word
  /-- CSR 3, FCMD (rule R54). -/
  fcmd : Word
  /-- CSR 4, VERSION, 8 bits (rule R47). -/
  version : BitVec 8
  /-- CSR 5, LEVEL, 2 bits (rule R48). -/
  level : BitVec 2
  /-- CSR 6, MASK (rule R49). -/
  mask : Fin 8
  /-- CSR 7, PHASE (rule R50). -/
  phase : Phase
  /-- CSR 9, SCORE_N (rule R52). -/
  scoreN : Word
  /-- CSR 10, SCORE_F (rule R52). -/
  scoreF : Word
  /-- The model's own: the host's transactions that have not taken effect yet, oldest first (rules R61, R73). -/
  port : List HostTxn
  /-- The model's own: what the last transaction answered. -/
  reply : Reply
  /-- The model's own: the epoch of the free values (Config.lean). Every transaction but a read begins a new one, and
  so does a fault or a reset that leaves free values behind. -/
  freeIdx : Nat
  deriving DecidableEq, Repr

/-! ## Faults on the way -/

/-- `raise cause(info)` in a function that has no state (rules R13, R320). -/
structure Raise where
  cause : Cause
  info : Int
  deriving DecidableEq, Repr

/-- `raise cause(info)` in a command, with the state at the instant it is reached (rule R330). -/
structure Stop where
  cause : Cause
  info : Int
  current : State
  deriving DecidableEq, Repr

/-! ## The reasons a step can stop -/

/-- The reasons for which the machine would stop: there is none. Every fault of the spec is an entry into the
faulted state (rule R330), after which the unit still answers its host, so it is a next state. Raised by nobody;
an empty type is safe, since it stops no run. -/
inductive Fault
  deriving DecidableEq, Repr

/-- The reasons for which the model refuses an instruction. -/
inductive Refusal where
  /-- The model gives the instruction no meaning. Raised only by an arm of `exec` that stands refused by name; no
  arm does. Safe: nothing is claimed of such an instruction. -/
  | notModelled (mnemonic : String)
  deriving DecidableEq, Repr

/-! ## Reset -/

/-- The state after hardware reset (rules R57, R350). The scalar registers and the elements of STG, TXT and SEG,
which the spec leaves unspecified, are 0 here (DESIGN CHOICE, log entry 1); `State.hardwareReset`
(Machine/HostPort.lean), the reset input, leaves them free. -/
def State.reset : State where
  x := Vector.replicate 16 0
  p := Vector.replicate 4 []
  stg := []
  stgLen := 0
  txt := []
  txtLen := 0
  seg := []
  segLen := 0
  bb := ⟨[], 0⟩
  blk := []
  cw := []
  grid := []
  modCnt := 0
  fault := false
  final := false
  dcValid := false
  testF := false
  cause := none
  finfo := 0
  fcmd := 0
  version := 0
  level := 0
  mask := 0
  phase := .empty
  scoreN := 0
  scoreF := 0
  port := []
  reply := .none
  freeIdx := 0

end Sys2Proof.Machine
end

