-- ==== Sys2Proof/Machine/Operands.lean ====
section
/-! DEFINITION. The operand forms (rules R10, R11, R13, R83, R84): how a register or an immediate becomes an
integer and an integer a register, and the bit helpers of the notation. -/

namespace Sys2Proof.Machine

/-- `sext_32(v)`: the low 32 bits of an integer, as a register holds them (rules R10, R13, R320). -/
def toWord (v : Int) : Word := BitVec.ofInt 32 v

/-- The 32-bit pattern of an unsigned count, as a control register holds it (rule R46). -/
def countWord (n : Nat) : Word := BitVec.ofNat 32 n

/-- `sext_16`, the immediate of `SET` (rule R83). -/
def sext16 (imm : BitVec 16) : Int := imm.toInt

/-- `zext_16`, a CSR number of `CSRR` and `CSRW` (rule R83). -/
def zext16 (imm : BitVec 16) : Nat := imm.toNat

/-- `zext_8`, the immediate of `POLY.NEW` and `RS.GEN` (rule R83). -/
def zext8 (imm : BitVec 8) : Nat := imm.toNat

/-- `zext_32`, a register's bit pattern (rule R147). -/
def zext32 (w : Word) : Nat := w.toNat

/-- `bitlen(v)`: 0 for 0, else the position of the highest set bit plus one (rule R11). -/
def bitlen (v : Nat) : Nat := if v = 0 then 0 else Nat.log2 v + 1

/-- A boolean in a scalar register: 1 or 0 (rule R14). -/
def boolValue (b : Bool) : Int := if b then 1 else 0

/-- The pattern a mask field names, when it names one (rules R83, R215). -/
def maskPattern? (mask : Nat) : Option (Fin 8) := if h : mask < 8 then some ⟨mask, h⟩ else none

end Sys2Proof.Machine
end

