-- ==== Sys2Proof/Machine/Flags.lean ====
section
/-! DEFINITION. The flags: the fields of STATUS (rules R45, R46, R54 to R56) and the events that write them.
The unit has no arithmetic condition codes. -/

namespace Sys2Proof.Machine

/-- CSR 0, STATUS: bit 0 FAULT, bit 1 FINAL, bit 2 DCVALID, bit 3 TESTF, bits 31:4 zero (rule R46). -/
def State.statusWord (s : State) : Word :=
  countWord (s.fault.toNat + 2 * s.final.toNat + 4 * s.dcValid.toNat + 8 * s.testF.toNat)

/-- `STATUS.DCVALID <- 0` (rule R55). -/
def State.clearDcValid (s : State) : State := { s with dcValid := false }

/-- `STATUS.DCVALID <- 1` (rules R55, R186). -/
def State.setDcValid (s : State) : State := { s with dcValid := true }

end Sys2Proof.Machine
end

