-- ==== Sys2Proof/Machine/Ops.lean ====
section
/-! DEFINITION. The named operations over the state: the element-addressed memories, the scalar and polynomial
registers, the control registers, the grid's cells, the bit buffer's growth; taking a fault (rule R330) as one
shared operation, and the return from the faulted state beside it (rules R302, R336). -/

namespace Sys2Proof.Machine

/-! ## Element-addressed memories: STG, TXT, SEG (rules R60, R68) -/

/-- What an element that nothing has written reads as in `State.reset` (DESIGN CHOICE, log entry 1). -/
def unlisted (width : Nat) : BitVec width := 0

/-- The list with one cell in front, or without it where it would hold the unlisted value. -/
def Memory.cons {width : Nat} (i : Nat) (v : BitVec width) (m : Memory width) : Memory width :=
  if v = unlisted width then m else (i, v) :: m

/-- Read element `i`. -/
def Memory.read {width : Nat} : Memory width → Nat → BitVec width
  | [], _ => unlisted width
  | (j, v) :: m, i => if j = i then v else Memory.read m i

/-- Write element `i`. -/
def Memory.write {width : Nat} : Memory width → Nat → BitVec width → Memory width
  | [], i, v => Memory.cons i v []
  | (j, u) :: m, i, v =>
    if i < j then Memory.cons i v ((j, u) :: m)
    else if i = j then Memory.cons i v m
    else (j, u) :: Memory.write m i v

/-- `MemRead(S+0, n)` (rule R13). -/
def Memory.readSeq {width : Nat} (m : Memory width) (n : Nat) : List (BitVec width) :=
  (List.range n).map (Memory.read m)

/-- `MemWrite(S+i, n, v)` (rule R13). -/
def Memory.writeSeq {width : Nat} : Memory width → Nat → List (BitVec width) → Memory width
  | m, _, [] => m
  | m, i, v :: vs => Memory.writeSeq (Memory.write m i v) (i + 1) vs

/-- The memory whose elements 0 to `n - 1` are given by a function, in canonical form. Irreducible, so that no
unification unrolls a whole space. -/
@[irreducible] def Memory.ofElements {width : Nat} (n : Nat) (f : Nat → BitVec width) : Memory width :=
  (List.range n).foldr (fun i m => Memory.cons i (f i) m) []

/-- The canonical form: indices strictly rising, no entry equal to what an unlisted index reads as. -/
def Memory.wf {width : Nat} : Memory width → Bool
  | [] => true
  | [(_, v)] => v != unlisted width
  | (i, v) :: (j, u) :: m => v != unlisted width && i < j && Memory.wf ((j, u) :: m)

/-- Every index of the memory is below a capacity (rule R60). -/
def Memory.below {width : Nat} (capacity : Nat) (m : Memory width) : Bool := m.all fun c => c.1 < capacity

/-! ## Scalar and polynomial registers -/

/-- `x[r]`, read as a signed integer (rules R13, R30). -/
def State.readX (s : State) (r : XReg) : Int := s.x[r].toInt

/-- `x[r] <- v` (rule R13). -/
def State.writeX (s : State) (r : XReg) (v : Int) : State := { s with x := s.x.set r (toWord v) }

/-- `x[r]` becomes a 32-bit pattern (the host's X port, `CSRR`). -/
def State.writeXWord (s : State) (r : XReg) (w : Word) : State := { s with x := s.x.set r w }

/-- `p[k]` (rules R13, R33). -/
def State.readP (s : State) (k : PReg) : Poly := s.p[k]

/-- `p[k] <- c`: the whole value is replaced (rules R13, R33). -/
def State.writeP (s : State) (k : PReg) (c : Poly) : State := { s with p := s.p.set k c }

/-! ## Control and status registers (rule R46) -/

/-- The cause codes (rule R320). -/
def Cause.code : Cause → Nat
  | .logZero => 1
  | .maskPattern => 2
  | .coordinate => 3
  | .rsBlock => 4
  | .dataOverflow => 5
  | .tooLongData => 6
  | .tableEntryMissing => 7
  | .illegalCommand => 8
  | .sequenceError => 9
  | .operandRange => 10
  | .bufferLimit => 11

/-- The phase numbers (rule R50). -/
def Phase.code : Phase → Nat
  | .empty => 0
  | .structuralPatternsPlaced => 1
  | .dataMapped => 2
  | .finalized => 3

/-- CSR.CAUSE: the code, 0 when no fault is recorded (rules R54, R320). -/
def State.causeCode (s : State) : Nat :=
  match s.cause with
  | none => 0
  | some c => c.code

/-- The value of CSR number `n`, none for a reserved number (rules R46, R303). -/
def State.csrRead (s : State) (n : Nat) : Option Word :=
  match n with
  | 0 => some s.statusWord
  | 1 => some (countWord s.causeCode)
  | 2 => some s.finfo
  | 3 => some s.fcmd
  | 4 => some (s.version.setWidth 32)
  | 5 => some (s.level.setWidth 32)
  | 6 => some (countWord s.mask.val)
  | 7 => some (countWord s.phase.code)
  | 8 => some (countWord s.modCnt)
  | 9 => some s.scoreN
  | 10 => some s.scoreF
  | 11 => some (countWord s.bb.len)
  | 12 => some (countWord s.txtLen)
  | 13 => some (countWord s.segLen)
  | 14 => some (countWord s.cw.length)
  | 15 => some (countWord s.stgLen)
  | 16 => some (countWord s.blk.length)
  | _ => none

/-- A write of VERSION: the low 8 bits, and DCVALID is cleared (rules R47, R304). -/
def State.writeVersion (s : State) (v : Word) : State := { s with version := v.setWidth 8, dcValid := false }

/-- A write of LEVEL: the low 2 bits, and DCVALID is cleared (rules R48, R304). -/
def State.writeLevel (s : State) (v : Word) : State := { s with level := v.setWidth 2, dcValid := false }

/-- What a write of a CSR does: it takes effect, its value is outside the register's range, or the register takes
no write (rules R53, R87, R304). -/
inductive CsrWriteResult where
  | written (s : State)
  | outOfRange
  | notWritable

/-- A length register's write, refused above the capacity of its buffer (rule R53). -/
def lengthWrite (capacity : Nat) (v : Int) (store : Nat → State) : CsrWriteResult :=
  if v < 0 ∨ v > (capacity : Int) then .outOfRange else .written (store v.toNat)

/-- A write of `w` to CSR number `n`, by `CSRW` or by the host (rules R46, R53, R62, R304). -/
def State.csrWrite (s : State) (n : Nat) (w : Word) : CsrWriteResult :=
  match n with
  | 4 => .written (s.writeVersion w)
  | 5 => .written (s.writeLevel w)
  | 12 => lengthWrite Config.txtMax w.toInt fun v => { s with txtLen := v }
  | 13 => lengthWrite Config.segMax w.toInt fun v => { s with segLen := v, dcValid := false }
  | 15 => lengthWrite Config.polyMax w.toInt fun v => { s with stgLen := v }
  | _ => .notWritable

/-- `(version - 1) * 4 + levelIndex`, the table index of a version and a level (rules R24, R327). -/
def tableIndex (version level : Nat) : Int := ((version : Int) - 1) * 4 + (level : Int)

/-- A version of the tables (rule R47). -/
def versionInRange (version : Nat) : Bool := decide (1 ≤ version) && decide (version ≤ 40)

/-! ## The grid's cells (rules R13, R41) -/

/-- The cell at a row and a column; outside the grid nothing is set. -/
def Grid.cell (g : Grid) (row col : Nat) : GridCell := (g.getD row []).getD col .unset

/-- `GRID[row][col] == Dark`. -/
def Grid.isDark (g : Grid) (row col : Nat) : Bool := g.cell row col == .dark

/-- The cell that stands for a boolean: `Dark` for true (rule R14). -/
def GridCell.ofBool (dark : Bool) : GridCell := if dark then .dark else .light

/-- `GRID[row][col] <- dark`; a position outside the grid does not exist. -/
def Grid.put (g : Grid) (row col : Int) (dark : Bool) : Grid :=
  if row < 0 ∨ col < 0 then g
  else g.modify row.toNat fun cells => cells.set col.toNat (GridCell.ofBool dark)

/-- A grid of side `mc` with every cell `Unset` (rule R251). -/
def Grid.blank (mc : Nat) : Grid := List.replicate mc (List.replicate mc .unset)

/-! ## The bit buffer's growth (rules R64, R141) -/

/-- The empty bit buffer (rule R146). -/
def BitBuffer.empty : BitBuffer := ⟨[], 0⟩

/-- Append one bit, without a bound: a zero byte when the length crosses a byte boundary, then the bit ORed into
position `7 - (length mod 8)`. -/
def BitBuffer.push (b : BitBuffer) (bit : Bool) : BitBuffer :=
  let k := b.len / 8
  let bytes := if (b.len + 7) / 8 ≤ k then b.bytes ++ [0] else b.bytes
  { bytes := if bit then bytes.modify k (· ||| ((0x80 : Byte) >>> (b.len % 8))) else bytes, len := b.len + 1 }

/-- The bit buffer of a sequence of bits. -/
def BitBuffer.ofBits (bits : List Bool) : BitBuffer := bits.foldl BitBuffer.push .empty

/-! ## Raising a fault -/

/-- `raise cause(info)` in a command (rule R13). -/
def raise {α : Type} (s : State) (cause : Cause) (info : Int) : Except Stop α := .error ⟨cause, info, s⟩

/-- The answer of a function without a state, in a command: its fault is raised in the present state. -/
def liftRaise {α : Type} (s : State) : Except Raise α → Except Stop α
  | .ok a => .ok a
  | .error e => raise s e.cause e.info

/-! ## Taking a fault (rule R330)

`faultEntry` writes what the rule's first block writes. A command reaches it through `complete`, with the state at
the instant of the `raise`; for a command that makes all its checks before its first write that is the state before
it. What a composite command leaves in the buffers it writes is free (rule R330(b)). -/

/-- Fault entry: the record, the flags, and the grid dropped. `w` is the word the host issued. -/
def faultEntry (w : Word) (cause : Cause) (info : Int) (s : State) : State :=
  { s with
    fault := true, cause := some cause, finfo := toWord info, fcmd := w
    dcValid := false, final := false, testF := false
    phase := .empty, modCnt := 0, grid := [] }

/-- BB and BBLEN free, within the buffer's capacity (rules R38, R330(b), R359(d)). -/
def State.freeBb (s : State) : State :=
  let n := min (Config.freeBbLen s.freeIdx) (8 * Config.bbMaxBytes)
  { s with bb := BitBuffer.ofBits ((List.range n).map (Config.freeBbBit s.freeIdx)) }

/-- CW and CWLEN free, within the buffer's capacity (rules R40, R330(b), R359(d)). -/
def State.freeCw (s : State) : State :=
  let n := min (Config.freeCwLen s.freeIdx) Config.cwMax
  { s with cw := (List.range n).map (Config.freeCw s.freeIdx) }

/-- The elements of SEG free (rules R57, R330(b), R359). -/
def State.freeSegElements (s : State) : State :=
  { s with seg := Memory.ofElements Config.segMax (Config.freeSeg s.freeIdx) }

/-- SEG and SEGLEN free, within the buffer's capacity (rules R37, R330(b), R359(d)). -/
def State.freeSeg (s : State) : State :=
  { s.freeSegElements with segLen := min (Config.freeSegLen s.freeIdx) Config.segMax }

/-- The next free value comes from a new epoch. -/
def State.nextEpoch (s : State) : State := { s with freeIdx := s.freeIdx + 1 }

/-- What a fault leaves of the buffers a command writes, by cause and state at the `raise`. -/
abbrev Outputs := Cause → State → State

/-- A simple command: nothing but rule R330's lines changes (rule R330(a)); also `SEG.ENC`, `SEG.WRITE`, whose one
fault is a limit checked before anything is written (rules R142, R154, R329), and `GRID.STRUCT`, `GRID.MAP`, which
write the grid alone. -/
def Outputs.kept : Outputs := fun _ s => s

/-- `DATA.FIN` writes BB. -/
def Outputs.bbFree : Outputs := fun _ s => s.freeBb.nextEpoch

/-- `DATA.SEG` writes BB; its limit is checked before anything is written (rules R142, R329; log entry 5). -/
def Outputs.bbFreeUnlessLimit : Outputs := fun c s => if c = .bufferLimit then s else s.freeBb.nextEpoch

/-- `RS.ENC` writes CW (rule R186). -/
def Outputs.cwFree : Outputs := fun _ s => s.freeCw.nextEpoch

/-- `MAKEIMPL` writes BB and CW. -/
def Outputs.bbCwFree : Outputs := fun _ s => s.freeBb.freeCw.nextEpoch

/-- `MAKE` writes SEG, BB and CW. -/
def Outputs.segBbCwFree : Outputs := fun _ s => s.freeSeg.freeBb.freeCw.nextEpoch

/-- The end of a command that is not `RESET` (rule R92): in the faulted state it is refused with no effect; else
it completes with the state its rule leaves, or its fault is taken, FCMD recording its own word. -/
def complete (i : Instr) (outputs : Outputs) (s : State) (r : Except Stop State) : State :=
  if s.fault then s
  else match r with
    | .ok t => t
    | .error e => faultEntry (encode i) e.cause e.info (outputs e.cause e.current)

/-- A word that no row selects (rules R86, R92 step 2): refused in the faulted state, else `IllegalCommand(W)`. -/
def illegalWord (w : Word) (s : State) : State :=
  if s.fault then s else faultEntry w .illegalCommand w.toNat s

/-! ## Return from the faulted state (rules R302, R336, R351) -/

/-- What `RESET` and a hardware reset share: everything at its value of rule R57's table but the scalar registers
and the elements of STG, TXT and SEG. -/
def State.clear (s : State) : State :=
  { s with
    p := Vector.replicate 4 []
    stgLen := 0, txtLen := 0, segLen := 0
    bb := .empty, blk := [], cw := []
    grid := [], modCnt := 0, phase := .empty
    fault := false, final := false, dcValid := false, testF := false
    cause := none, finfo := 0, fcmd := 0
    version := 0, level := 0, mask := 0
    scoreN := 0, scoreF := 0 }

end Sys2Proof.Machine
end

