-- ==== Sys2Proof/Machine/BlockLookup.lean ====
section
/-! DEFINITION. The Reed-Solomon block lookup (rule R180), which the data assembly (42_bitstream.md), the codeword
generator (43_rs.md) and the layout engine (45_matrix.md) share. -/

namespace Sys2Proof.Machine

/-- The blocks of one group, after its checks (rule R180). A group of no block makes none and checks none. -/
def groupBlocks (idx : Int) (g : Config.BlockGroup) : Except Raise (List RsBlock) :=
  if g.blockCount = 0 then .ok []
  else if g.totalCodewords < g.dataCodewords then .error ⟨.rsBlock, idx⟩
  else if ¬ (0 < g.totalCodewords ∧ 0 < g.dataCodewords ∧ g.dataCodewords ≤ g.totalCodewords) then
    .error ⟨.rsBlock, idx⟩
  else .ok (List.replicate g.blockCount ⟨g.totalCodewords, g.dataCodewords⟩)

/-- The blocks of a cell's groups, in the cell's order (rule R180). -/
def cellBlocks (idx : Int) : List Config.BlockGroup → Except Raise (List RsBlock)
  | [] => .ok []
  | g :: gs => do
    let first ← groupBlocks idx g
    let others ← cellBlocks idx gs
    return first ++ others

/-- `getRSBlocks(version, levelIndex)` (rule R180). -/
def getRSBlocks (rom : Config.Rom) (version level : Nat) : Except Raise (List RsBlock) :=
  let idx := tableIndex version level
  if !versionInRange version then .error ⟨.tableEntryMissing, idx⟩
  else match rom.rsBlock.getD idx.toNat [] with
    | [] => .error ⟨.tableEntryMissing, idx⟩
    | cell => cellBlocks idx cell

/-- The sum of `dataCount` over blocks: the source's totalDataCount (rule R160). -/
def totalData (blocks : List RsBlock) : Nat := (blocks.map (·.dataCount)).sum

/-- The sum of `totalCount` over blocks (rule R186). -/
def totalCodewords (blocks : List RsBlock) : Nat := (blocks.map (·.totalCount)).sum

/-- The blocks of the version and the level in force. -/
def State.blocks (rom : Config.Rom) (s : State) : Except Stop (List RsBlock) :=
  liftRaise s (getRSBlocks rom s.version.toNat s.level.toNat)

end Sys2Proof.Machine
end

