-- ==== Sys2Proof/Machine/BitStream.lean ====
section
/-! DEFINITION. The front end (42_bitstream.md): the bit buffer, the byte segment, the data codewords and the
version selection, as pure functions (rules R141 to R143, R150, R151, R156, R159, R161, R162) and the commands BB.*,
SEG.*, UTF8.LEN, DATA.*, VER.SEL. -/

namespace Sys2Proof.Machine

/-! ## The bit buffer -/

/-- `putBit(bit)` (rule R141). -/
def putBit (b : BitBuffer) (bit : Bool) : Except Raise BitBuffer :=
  if (b.len + 7) / 8 ≤ b.len / 8 ∧ b.len / 8 ≥ Config.bbMaxBytes then .error ⟨.bufferLimit, b.len⟩
  else .ok (b.push bit)

/-- `putBit` for each bit of a sequence, in order. -/
def putBits (b : BitBuffer) : List Bool → Except Raise BitBuffer
  | [] => .ok b
  | bit :: bits => do
    let b ← putBit b bit
    putBits b bits

/-- The `numBits` least-significant bits of a value, most significant first (rules R65, R142). -/
def valueBits (value numBits : Nat) : List Bool :=
  (List.range numBits).map fun i => value.testBit (numBits - i - 1)

/-- `put(value, numBits)` (rule R142). -/
def put (b : BitBuffer) (value numBits : Nat) : Except Raise BitBuffer := putBits b (valueBits value numBits)

/-- `put(byte, 8)` for each byte of a sequence, in order. -/
def putBytes (b : BitBuffer) : List Byte → Except Raise BitBuffer
  | [] => .ok b
  | v :: vs => do
    let b ← put b v.toNat 8
    putBytes b vs

/-- `get(index)` (rules R64, R143). -/
def BitBuffer.get (b : BitBuffer) (index : Nat) : Bool := (b.bytes.getD (index / 8) 0).getLsbD (7 - index % 8)

/-- Whether `n` more bits fit (rule R142). -/
def BitBuffer.fits (b : BitBuffer) (n : Nat) : Bool := b.len + n ≤ 8 * Config.bbMaxBytes

/-- The state with a new bit buffer, DCVALID cleared: the end of every command that writes BB (rule R55). -/
def State.withBb (s : State) (b : BitBuffer) : State := { s with bb := b, dcValid := false }

/-- The rule of `BB.CLR` (rule R146). -/
def bodyBbClr (s : State) : Except Stop State := .ok (s.withBb .empty)

/-- `BB.CLR` (rule R146). -/
def execBbClr (s : State) : Host.Outcome State Fault Refusal :=
  .next (complete .bbClr Outputs.kept s (bodyBbClr s))

/-- The rule of `BB.PUT` (rule R147). -/
def bodyBbPut (ra rb : XReg) (s : State) : Except Stop State :=
  let n := s.readX rb
  if n < 0 ∨ n > 32 then raise s .operandRange n
  else if !s.bb.fits n.toNat then raise s .bufferLimit (s.bb.len + n)
  else do
    let b ← liftRaise s (put s.bb (zext32 s.x[ra]) n.toNat)
    return s.withBb b

/-- `BB.PUT xa, xb` (rule R147). -/
def execBbPut (ra rb : XReg) (s : State) : Host.Outcome State Fault Refusal :=
  .next (complete (.bbPut ra rb) Outputs.kept s (bodyBbPut ra rb s))

/-- The rule of `BB.PUTBIT` (rule R148). -/
def bodyBbPutbit (ra : XReg) (s : State) : Except Stop State :=
  if !s.bb.fits 1 then raise s .bufferLimit (s.bb.len + 1)
  else do
    let b ← liftRaise s (putBit s.bb (s.readX ra != 0))
    return s.withBb b

/-- `BB.PUTBIT xa` (rule R148). -/
def execBbPutbit (ra : XReg) (s : State) : Host.Outcome State Fault Refusal :=
  .next (complete (.bbPutbit ra) Outputs.kept s (bodyBbPutbit ra s))

/-- The rule of `BB.GET` (rule R149). -/
def bodyBbGet (rd ra : XReg) (s : State) : Except Stop State :=
  let k := s.readX ra
  if k < 0 ∨ k ≥ s.bb.len then raise s .operandRange k
  else .ok (s.writeX rd (boolValue (s.bb.get k.toNat)))

/-- `BB.GET xd, xa` (rule R149). -/
def execBbGet (rd ra : XReg) (s : State) : Host.Outcome State Fault Refusal :=
  .next (complete (.bbGet rd ra) Outputs.kept s (bodyBbGet rd ra s))

/-! ## The byte segment -/

/-- A byte of a multi-byte sequence: the lead bits over the code unit's bits. -/
def leadByte (lead bits : Nat) : Byte := BitVec.ofNat 8 (lead ||| bits)

/-- A continuation byte: the low 6 bits of its argument under `0x80` (rule R150). -/
def continuationByte (bits : Nat) : Byte := leadByte 0x80 (bits &&& 0x3F)

/-- `unit_bytes(c)` (rule R150). A code unit is below 0x10000, so the fourth branch is never taken; it is kept
because the source has it. -/
def unitBytes (c : Nat) : List Byte :=
  if c < 0x80 then [BitVec.ofNat 8 c]
  else if c < 0x800 then [leadByte 0xC0 (c >>> 6), continuationByte c]
  else if c < 0x10000 then [leadByte 0xE0 (c >>> 12), continuationByte (c >>> 6), continuationByte c]
  else [leadByte 0xF0 (c >>> 18), continuationByte (c >>> 12), continuationByte (c >>> 6), continuationByte c]

/-- `seg_enc(units)` (rule R151). -/
def segEnc (units : List CodeUnit) : List Byte :=
  let bytes := units.flatMap fun c => unitBytes c.toNat
  if bytes.length ≠ units.length then bom ++ bytes else bytes

/-- The text: `MemRead(TXT+0, CSR.TXTLEN)`. -/
def State.text (s : State) : List CodeUnit := s.txt.readSeq s.txtLen

/-- The segment: `MemRead(SEG+0, CSR.SEGLEN)`. -/
def State.segment (s : State) : List Byte := s.seg.readSeq s.segLen

/-- The rule of `SEG.ENC` (rules R152, R329). The limit cannot be passed while TXTLEN is at most TXT_MAX. -/
def bodySegEnc (s : State) : Except Stop State :=
  let bytes := segEnc s.text
  if bytes.length > Config.segMax then raise s .bufferLimit bytes.length
  else .ok { s with seg := s.seg.writeSeq 0 bytes, segLen := bytes.length, dcValid := false }

/-- `SEG.ENC` (rule R152). -/
def execSegEnc (s : State) : Host.Outcome State Fault Refusal :=
  .next (complete .segEnc Outputs.kept s (bodySegEnc s))

/-- `SEG.LEN xd` (rule R153). -/
def execSegLen (rd : XReg) (s : State) : Host.Outcome State Fault Refusal :=
  .next (complete (.segLen rd) Outputs.kept s (.ok (s.writeX rd s.segLen)))

/-- The rule of `SEG.WRITE` (rule R154). -/
def bodySegWrite (s : State) : Except Stop State :=
  if !s.bb.fits (8 * s.segLen) then raise s .bufferLimit (s.bb.len + 8 * s.segLen)
  else do
    let b ← liftRaise s (putBytes s.bb s.segment)
    return s.withBb b

/-- `SEG.WRITE` (rule R154). -/
def execSegWrite (s : State) : Host.Outcome State Fault Refusal :=
  .next (complete .segWrite Outputs.kept s (bodySegWrite s))

/-- The loop of `UTF8.LEN`: the byte counts of the code units, summed (rule R155). -/
def unitLengths : List CodeUnit → Nat
  | [] => 0
  | c :: cs => (unitBytes c.toNat).length + unitLengths cs

/-- The value `UTF8.LEN` returns (rule R155), computed apart from `segEnc`. -/
def utf8Length (units : List CodeUnit) : Nat :=
  let n := unitLengths units
  if n ≠ units.length then n + 3 else n

/-- `UTF8.LEN xd` (rule R155). -/
def execUtf8Len (rd : XReg) (s : State) : Host.Outcome State Fault Refusal :=
  .next (complete (.utf8Len rd) Outputs.kept s (.ok (s.writeX rd (utf8Length s.text))))

/-! ## Data codewords -/

/-- `LENGTH_BITS(version)` for a version of the tables (rule R156). -/
def lengthBits (rom : Config.Rom) (version : Nat) : Nat := rom.lengthBits.getD (version - 1) 0

/-- One segment's bits: mode, length, payload (rules R157, R158). -/
def putSegment (rom : Config.Rom) (version : Nat) (segment : List Byte) (b : BitBuffer) :
    Except Raise BitBuffer := do
  let b ← put b rom.modeByte 4
  let b ← put b segment.length (lengthBits rom version)
  putBytes b segment

/-- The rule of `DATA.SEG` (rule R158). -/
def bodyDataSeg (rom : Config.Rom) (s : State) : Except Stop State :=
  let v := s.version.toNat
  let need := 4 + lengthBits rom v + 8 * s.segLen
  if !versionInRange v then raise s .tableEntryMissing (tableIndex v s.level.toNat)
  else if !s.bb.fits need then raise s .bufferLimit (s.bb.len + need)
  else do
    let b ← liftRaise s (putSegment rom v s.segment s.bb)
    return s.withBb b

/-- `DATA.SEG` (rule R158). -/
def execDataSeg (s : State) : Host.Outcome State Fault Refusal :=
  .next (complete .dataSeg Outputs.bbFreeUnlessLimit s (bodyDataSeg rom s))

/-- `while CSR.BBLEN mod 8 != 0: putBit(false)`; at most 7 bits are missing (rule R159). -/
def padToByte : (rounds : Nat) → (b : BitBuffer) → Except Raise BitBuffer
  | 0, b => .ok b
  | rounds + 1, b =>
    if b.len % 8 ≠ 0 then do
      let b ← putBit b false
      padToByte rounds b
    else .ok b

/-- The padding loop: alternating bytes until `bits` bits are in the buffer (rule R159). A round adds 8 bits. -/
def padBytes (bits : Nat) : (rounds : Nat) → (now next : Byte) → (b : BitBuffer) → Except Raise BitBuffer
  | 0, _, _, b => .ok b
  | rounds + 1, now, next, b =>
    if b.len ≥ bits then .ok b
    else do
      let b ← put b now.toNat 8
      padBytes bits rounds next now b

/-- `data_finish(T)` (rule R159). -/
def dataFinish (t : Nat) (b : BitBuffer) : Except Raise BitBuffer :=
  if b.len > t * 8 then .error ⟨.dataOverflow, b.len⟩
  else do
    let b ← if b.len + 4 ≤ t * 8 then put b 0 4 else .ok b
    let b ← padToByte 7 b
    padBytes (t * 8) t padFirst padSecond b

/-- The rule of `DATA.FIN` (rule R160). -/
def bodyDataFin (rom : Config.Rom) (s : State) : Except Stop State := do
  let blocks ← s.blocks rom
  let b ← liftRaise s (dataFinish (totalData blocks) s.bb)
  return s.withBb b

/-- `DATA.FIN` (rule R160). -/
def execDataFin (s : State) : Host.Outcome State Fault Refusal :=
  .next (complete .dataFin Outputs.bbFree s (bodyDataFin rom s))

/-! ## Version selection -/

/-- `capacity(version, levelIndex)` for a version of the table (rule R161). -/
def capacityOf (rom : Config.Rom) (version level : Nat) : Nat := (rom.capacity.getD (version - 1) []).getD level 0

/-- The table walk of `VER.SEL`, versions 1 to 40 ascending (rule R162). -/
def selectVersion (rom : Config.Rom) (level : Nat) (length : Int) : Except Raise Nat :=
  if length < 0 then .error ⟨.operandRange, length⟩
  else match (List.range' 1 40).find? fun v => decide (length ≤ capacityOf rom v level) with
    | some v => .ok v
    | none => .error ⟨.tooLongData, length⟩

/-- The rule of `VER.SEL` (rule R162). -/
def bodyVerSel (rom : Config.Rom) (rd ra : XReg) (s : State) : Except Stop State := do
  let v ← liftRaise s (selectVersion rom s.level.toNat (s.readX ra))
  return s.writeX rd v

/-- `VER.SEL xd, xa` (rule R162). -/
def execVerSel (rd ra : XReg) (s : State) : Host.Outcome State Fault Refusal :=
  .next (complete (.verSel rd ra) Outputs.kept s (bodyVerSel rom rd ra s))

end Sys2Proof.Machine
end

