-- ==== Sys2Proof/Machine/Gf.lean ====
section
/-! DEFINITION. The field GF(256): its lookups (rule R15) and the commands GF.LOG and GF.EXP (40_gf.md). -/

namespace Sys2Proof.Machine

/-- `glog(n)`, `n` an integer (rule R15). -/
def glog (n : Int) : Except Raise Nat :=
  if n < 1 then .error ⟨.logZero, n⟩
  else if n > 255 then .error ⟨.operandRange, n⟩
  else .ok (romLog n.toNat).toNat

/-- `gexp(n)`, `n` any integer: the remainder is Euclidean (rules R10, R15). -/
def gexp (n : Int) : Byte := romExp (n % 255).toNat

/-- The logarithm of a coefficient. -/
def glogByte (c : Byte) : Except Raise Nat := glog c.toNat

/-- `gfmul(a, b)`, which faults when either is 0 (rules R15, R104(e)). -/
def gfmul (a b : Byte) : Except Raise Byte := do
  let la ← glogByte a
  let lb ← glogByte b
  return gexp (la + lb)

/-- The rule of `GF.LOG` (rule R102). -/
def bodyGfLog (rd ra : XReg) (s : State) : Except Stop State := do
  let k ← liftRaise s (glog (s.readX ra))
  return s.writeX rd k

/-- `GF.LOG xd, xa` (rule R102). -/
def execGfLog (rd ra : XReg) (s : State) : Host.Outcome State Fault Refusal :=
  .next (complete (.gfLog rd ra) Outputs.kept s (bodyGfLog rd ra s))

/-- `GF.EXP xd, xa` (rule R103). -/
def execGfExp (rd ra : XReg) (s : State) : Host.Outcome State Fault Refusal :=
  .next (complete (.gfExp rd ra) Outputs.kept s (.ok (s.writeX rd (gexp (s.readX ra)).toNat)))

end Sys2Proof.Machine
end

