-- ==== Sys2Proof/Machine/Poly.lean ====
section
/-! DEFINITION. Polynomials over GF(256): construction, product and remainder as pure functions (rules R120, R122,
R124), and the commands POLY.NEW, POLY.MUL, POLY.MOD, POLY.LEN, POLY.GET (41_poly.md). -/

namespace Sys2Proof.Machine

/-- A sequence of zero coefficients (rule R12). -/
def zeros (n : Nat) : Poly := List.replicate n 0

/-- `poly(raw, shift)`: leading zeros stripped, `shift` zeros appended (rule R120). -/
def poly (raw : List Byte) (shift : Nat) : Poly := raw.dropWhile (· == 0) ++ zeros shift

/-- `num[k] = num[k] ^ v`. -/
def xorAt (num : Poly) (k : Nat) (v : Byte) : Poly := num.modify k (· ^^^ v)

/-- The inner loop of `pmul`, from position `k = i + j` on: the coefficient `a[i]` against `b[j]`, `b[j+1]`, … -/
def pmulRow (ai : Byte) : (b : List Byte) → (k : Nat) → (num : Poly) → Except Raise Poly
  | [], _, num => .ok num
  | bj :: b, k, num => do
    let t ← gfmul ai bj
    pmulRow ai b (k + 1) (xorAt num k t)

/-- The outer loop of `pmul`, from coefficient `i` of `a` on. -/
def pmulRows (b : List Byte) : (a : List Byte) → (i : Nat) → (num : Poly) → Except Raise Poly
  | [], _, num => .ok num
  | ai :: a, i, num => do
    let num ← pmulRow ai b i num
    pmulRows b a (i + 1) num

/-- `pmul(a, b)` (rule R122): an empty operand faults, and so does any zero coefficient. -/
def pmul (a b : Poly) : Except Raise Poly :=
  if a.length = 0 ∨ b.length = 0 then .error ⟨.operandRange, 0⟩
  else do
    let num ← pmulRows b a 0 (zeros (a.length + b.length - 1))
    return poly num 0

/-- The scaling loop of a pass of `pmod`: the divisor's coefficients from position `i` on. -/
def pmodXor (ratio : Int) : (e : List Byte) → (i : Nat) → (num : Poly) → Except Raise Poly
  | [], _, num => .ok num
  | ei :: e, i, num => do
    let le ← glogByte ei
    pmodXor ratio e (i + 1) (xorAt num i (gexp (le + ratio)))

/-- One pass of `pmod`, for a dividend not shorter than the divisor (rule R124). -/
def pmodPass (a e : Poly) : Except Raise Poly := do
  let la ← glogByte (a.headD 0)
  let le ← glogByte (e.headD 0)
  let num ← pmodXor ((la : Int) - (le : Int)) e 0 a
  return poly num 0

/-- The loop of `pmod`. Every pass shortens the dividend (rule R124(a)), so `a.length + 1` rounds suffice. -/
def pmodLoop (e : Poly) : (rounds : Nat) → (a : Poly) → Except Raise Poly
  | 0, a => .ok a
  | rounds + 1, a =>
    if a.length < e.length then .ok a
    else do
      let a ← pmodPass a e
      pmodLoop e rounds a

/-- `pmod(a, e)` (rule R124): an empty divisor faults. -/
def pmod (a e : Poly) : Except Raise Poly :=
  if e.length = 0 then .error ⟨.operandRange, 0⟩ else pmodLoop e (a.length + 1) a

/-- A polynomial bound for a register: longer than POLY_MAX is `BufferLimit` (rules R121, R123, R183). -/
def storePoly (pd : PReg) (c : Poly) (s : State) : Except Stop State :=
  if c.length > Config.polyMax then raise s .bufferLimit c.length else .ok (s.writeP pd c)

/-- `POLY.NEW pd, imm8` (rule R121). -/
def execPolyNew (pd : PReg) (shift : BitVec 8) (s : State) : Host.Outcome State Fault Refusal :=
  .next (complete (.polyNew pd shift) Outputs.kept s
    (storePoly pd (poly (s.stg.readSeq s.stgLen) (zext8 shift)) s))

/-- The rule of `POLY.MUL` (rule R123). -/
def bodyPolyMul (pd pa pb : PReg) (s : State) : Except Stop State := do
  let c ← liftRaise s (pmul (s.readP pa) (s.readP pb))
  storePoly pd c s

/-- `POLY.MUL pd, pa, pb` (rule R123). -/
def execPolyMul (pd pa pb : PReg) (s : State) : Host.Outcome State Fault Refusal :=
  .next (complete (.polyMul pd pa pb) Outputs.kept s (bodyPolyMul pd pa pb s))

/-- The rule of `POLY.MOD` (rule R125). -/
def bodyPolyMod (pd pa pb : PReg) (s : State) : Except Stop State := do
  let c ← liftRaise s (pmod (s.readP pa) (s.readP pb))
  return s.writeP pd c

/-- `POLY.MOD pd, pa, pb` (rule R125). -/
def execPolyMod (pd pa pb : PReg) (s : State) : Host.Outcome State Fault Refusal :=
  .next (complete (.polyMod pd pa pb) Outputs.kept s (bodyPolyMod pd pa pb s))

/-- `POLY.LEN xd, pa` (rule R126). -/
def execPolyLen (rd : XReg) (pa : PReg) (s : State) : Host.Outcome State Fault Refusal :=
  .next (complete (.polyLen rd pa) Outputs.kept s (.ok (s.writeX rd (s.readP pa).length)))

/-- The rule of `POLY.GET` (rule R127). -/
def bodyPolyGet (rd : XReg) (pa : PReg) (rb : XReg) (s : State) : Except Stop State :=
  let k := s.readX rb
  if k < 0 ∨ k ≥ (s.readP pa).length then raise s .operandRange k
  else .ok (s.writeX rd ((s.readP pa).getD k.toNat 0).toNat)

/-- `POLY.GET xd, pa, xb` (rule R127). -/
def execPolyGet (rd : XReg) (pa : PReg) (rb : XReg) (s : State) : Host.Outcome State Fault Refusal :=
  .next (complete (.polyGet rd pa rb) Outputs.kept s (bodyPolyGet rd pa rb s))

end Sys2Proof.Machine
end

