-- ==== Sys2Proof/Machine/Rs.lean ====
section
/-! DEFINITION. The Reed-Solomon codeword generator (43_rs.md): the generator polynomial, a block's
error-correction codewords and the interleaving (rules R182, R184, R185), and the commands RS.BLOCKS, RS.GEN,
RS.ENC. -/

namespace Sys2Proof.Machine

/-- The rule of `RS.BLOCKS` (rule R181). -/
def bodyRsBlocks (rom : Config.Rom) (s : State) : Except Stop State := do
  let blocks ← s.blocks rom
  if blocks.length > Config.blkMax then raise s .bufferLimit blocks.length
  else return { s with blk := blocks }

/-- `RS.BLOCKS` (rule R181). -/
def execRsBlocks (s : State) : Host.Outcome State Fault Refusal :=
  .next (complete .rsBlocks Outputs.kept s (bodyRsBlocks rom s))

/-- The factors `i`, `i + 1`, … of the generator, `n` of them, multiplied onto `g` (rule R182). -/
def generatorFrom : (n i : Nat) → (g : Poly) → Except Raise Poly
  | 0, _, g => .ok g
  | n + 1, i, g => do
    let g ← pmul g [1, gexp i]
    generatorFrom n (i + 1) g

/-- `generator(ec)` (rule R182). -/
def generator (ec : Nat) : Except Raise Poly := generatorFrom ec 0 [1]

/-- The rule of `RS.GEN` (rule R183). -/
def bodyRsGen (pd : PReg) (ecCount : BitVec 8) (s : State) : Except Stop State := do
  let g ← liftRaise s (generator (zext8 ecCount))
  storePoly pd g s

/-- `RS.GEN pd, imm8` (rule R183). -/
def execRsGen (pd : PReg) (ecCount : BitVec 8) (s : State) : Host.Outcome State Fault Refusal :=
  .next (complete (.rsGen pd ecCount) Outputs.kept s (bodyRsGen pd ecCount s))

/-- `block_ec(data, ecCount)`: the remainder, right-aligned in `ecCount` bytes (rule R184). -/
def blockEc (data : List Byte) (ecCount : Nat) : Except Raise (List Byte) := do
  let g ← generator ecCount
  let m ← pmod (poly data (g.length - 1)) g
  return zeros (ecCount - m.length) ++ m

/-- The chunks of the data buffer, consecutive and in block order (rule R185). -/
def dataChunks : (blocks : List RsBlock) → (buffer : List Byte) → List (List Byte)
  | [], _ => []
  | b :: bs, buffer => buffer.take b.dataCount :: dataChunks bs (buffer.drop b.dataCount)

/-- The error-correction bytes of each block (rules R184, R185). -/
def ecChunks : (blocks : List RsBlock) → (chunks : List (List Byte)) → Except Raise (List (List Byte))
  | b :: bs, c :: cs => do
    let e ← blockEc c (b.totalCount - b.dataCount)
    let es ← ecChunks bs cs
    return e :: es
  | _, _ => .ok []

/-- Column by column over the rows; a row contributes nothing once exhausted (rule R185). -/
def interleave (rows : List (List Byte)) : List Byte :=
  let longest := (rows.map List.length).foldl max 0
  (List.range longest).flatMap fun i => rows.filterMap fun row => row[i]?

/-- `create_bytes(buffer, blocks)` (rule R185). -/
def createBytes (buffer : List Byte) (blocks : List RsBlock) : Except Raise (List Byte) := do
  let dc := dataChunks blocks buffer
  let ec ← ecChunks blocks dc
  return interleave dc ++ interleave ec

/-- The rule of `RS.ENC` (rule R186). -/
def bodyRsEnc (rom : Config.Rom) (s : State) : Except Stop State := do
  let blocks ← s.blocks rom
  if s.bb.len ≠ 8 * totalData blocks then raise s .sequenceError s.bb.len
  else if totalCodewords blocks > Config.cwMax then raise s .bufferLimit (totalCodewords blocks)
  else
    let out ← liftRaise s (createBytes (s.bb.bytes.take (totalData blocks)) blocks)
    return { s with cw := out }.setDcValid

/-- `RS.ENC` (rule R186). -/
def execRsEnc (s : State) : Host.Outcome State Fault Refusal :=
  .next (complete .rsEnc Outputs.cwFree s (bodyRsEnc rom s))

end Sys2Proof.Machine
end

