-- ==== Sys2Proof/Machine/SymbolMath.lean ====
section
/-! DEFINITION. SymbolMath (44_symbolmath.md): the BCH encoders, the mask predicates and the penalty scorer as pure
functions (rules R210, R212, R215, R217 to R221), and the commands BCH.FMT, BCH.VER, BCH.DIGIT, MASK.TST, SCORE. -/

namespace Sys2Proof.Machine

/-! ## BCH encoders -/

/-- The repeated exclusive-or reduction of `d` by a generator word. Every round shortens `d`, so `bitlen d` rounds
suffice (rules R210, R212). -/
def bchReduce (generatorWord : Nat) : (rounds : Nat) → (d : Nat) → Nat
  | 0, d => d
  | rounds + 1, d =>
    if bitlen d ≥ bitlen generatorWord then
      bchReduce generatorWord rounds (d ^^^ (generatorWord <<< (bitlen d - bitlen generatorWord)))
    else d

/-- The remainder of a word under a generator word. -/
def bchRemainder (generatorWord d : Nat) : Nat := bchReduce generatorWord (bitlen d) d

/-- `bch_format(data)` (rule R210). -/
def bchFormat (rom : Config.Rom) (data : Nat) : Nat :=
  ((data <<< 10) ||| bchRemainder g15 (data <<< 10)) ^^^ rom.g15Mask

/-- `bch_version(data)` (rule R212). -/
def bchVersion (rom : Config.Rom) (data : Nat) : Nat := (data <<< 12) ||| bchRemainder rom.g18 (data <<< 12)

/-- An operand of the BCH commands: an integer from 0 to a bound, else `OperandRange` (rules R211, R213). -/
def boundedOperand (bound : Int) (v : Int) (s : State) : Except Stop Nat :=
  if v < 0 ∨ v > bound then raise s .operandRange v else .ok v.toNat

/-- The rule of `BCH.FMT` (rule R211). -/
def bodyBchFmt (rom : Config.Rom) (rd ra : XReg) (s : State) : Except Stop State := do
  let data ← boundedOperand 31 (s.readX ra) s
  return s.writeX rd (bchFormat rom data)

/-- `BCH.FMT xd, xa` (rule R211). -/
def execBchFmt (rd ra : XReg) (s : State) : Host.Outcome State Fault Refusal :=
  .next (complete (.bchFmt rd ra) Outputs.kept s (bodyBchFmt rom rd ra s))

/-- The rule of `BCH.VER` (rule R213). -/
def bodyBchVer (rom : Config.Rom) (rd ra : XReg) (s : State) : Except Stop State := do
  let data ← boundedOperand 63 (s.readX ra) s
  return s.writeX rd (bchVersion rom data)

/-- `BCH.VER xd, xa` (rule R213). -/
def execBchVer (rd ra : XReg) (s : State) : Host.Outcome State Fault Refusal :=
  .next (complete (.bchVer rd ra) Outputs.kept s (bodyBchVer rom rd ra s))

/-- The rule of `BCH.DIGIT` (rule R214). -/
def bodyBchDigit (rd ra : XReg) (s : State) : Except Stop State :=
  let v := s.readX ra
  if v < 0 then raise s .operandRange v else .ok (s.writeX rd (bitlen v.toNat))

/-- `BCH.DIGIT xd, xa` (rule R214). -/
def execBchDigit (rd ra : XReg) (s : State) : Host.Outcome State Fault Refusal :=
  .next (complete (.bchDigit rd ra) Outputs.kept s (bodyBchDigit rd ra s))

/-! ## Mask predicates -/

/-- The eight predicates of `getMask`; `i` is the row and `j` the column (rules R17, R215). -/
def maskPredicate (pattern : Fin 8) (i j : Nat) : Bool :=
  match pattern with
  | 0 => (i + j) % 2 == 0
  | 1 => i % 2 == 0
  | 2 => j % 3 == 0
  | 3 => (i + j) % 3 == 0
  | 4 => (i / 2 + j / 3) % 2 == 0
  | 5 => (i * j) % 2 + (i * j) % 3 == 0
  | 6 => ((i * j) % 2 + (i * j) % 3) % 2 == 0
  | 7 => ((i * j) % 3 + (i + j) % 2) % 2 == 0

/-- `getMask(pattern, i, j)`: a pattern outside 0 to 7 is `DomainError.MaskPattern` (rule R215). -/
def getMask (pattern : Int) (i j : Nat) : Except Raise Bool :=
  match maskPattern? pattern.toNat with
  | some p => if pattern < 0 then .error ⟨.maskPattern, pattern⟩ else .ok (maskPredicate p i j)
  | none => .error ⟨.maskPattern, pattern⟩

/-- A coordinate of `MASK.TST`: 0 to GRID_MAX - 1 (rule R216). -/
def maskCoordinate (v : Int) (s : State) : Except Stop Nat :=
  if v < 0 ∨ v ≥ (Config.gridMax : Int) then raise s .operandRange v else .ok v.toNat

/-- The rule of `MASK.TST`: the pattern is checked first, then the row, then the column (rule R216). -/
def bodyMaskTst (rd ra rb rc : XReg) (s : State) : Except Stop State := do
  let pattern := s.readX ra
  if pattern < 0 ∨ pattern > 7 then raise s .maskPattern pattern
  else
    let i ← maskCoordinate (s.readX rb) s
    let j ← maskCoordinate (s.readX rc) s
    let b ← liftRaise s (getMask pattern i j)
    return s.writeX rd (boolValue b)

/-- `MASK.TST xd, xa, xb, xc` (rule R216). -/
def execMaskTst (rd ra rb rc : XReg) (s : State) : Host.Outcome State Fault Refusal :=
  .next (complete (.maskTst rd ra rb rc) Outputs.kept s (bodyMaskTst rd ra rb rc s))

/-! ## The penalty scorer

`mc` is the side of the grid and `g.isDark row col` the spec's `G[row][col]`. -/

/-- The sum of a penalty over `0 .. n-1`. -/
def sumRange (n : Nat) (f : Nat → Nat) : Nat := ((List.range n).map f).sum

/-- The offsets -1, 0, 1. -/
def unitOffsets : List Int := [-1, 0, 1]

/-- Whether the cell at an offset is a neighbour inside the grid of the same colour (rule R217). -/
def likeNeighbour (g : Grid) (mc row col : Nat) (r c : Int) : Bool :=
  let nr := (row : Int) + r
  let nc := (col : Int) + c
  if nr < 0 ∨ nr ≥ mc then false
  else if nc < 0 ∨ nc ≥ mc then false
  else if r = 0 ∧ c = 0 then false
  else g.isDark nr.toNat nc.toNat == g.isDark row col

/-- `same`: the like neighbours of a module (rule R217). -/
def likeNeighbours (g : Grid) (mc row col : Nat) : Nat :=
  (unitOffsets.map fun r => (unitOffsets.filter fun c => likeNeighbour g mc row col r c).length).sum

/-- Part (a), neighbourhood: above 5 like neighbours only (rule R217). -/
def partA (g : Grid) (mc : Nat) : Nat :=
  sumRange mc fun row => sumRange mc fun col =>
    let same := likeNeighbours g mc row col
    if same > 5 then 3 + same - 5 else 0

/-- The number of dark modules of a 2 by 2 block. -/
def blockDark (g : Grid) (row col : Nat) : Nat :=
  (g.isDark row col).toNat + (g.isDark (row + 1) col).toNat + (g.isDark row (col + 1)).toNat +
    (g.isDark (row + 1) (col + 1)).toNat

/-- Part (b), blocks (rule R218). -/
def partB (g : Grid) (mc : Nat) : Nat :=
  sumRange (mc - 1) fun row => sumRange (mc - 1) fun col =>
    let n := blockDark g row col
    if n = 0 ∨ n = 4 then 3 else 0

/-- `PAT`: dark, light, three dark, light, dark (rule R219). -/
def finderRun : List Bool := [true, false, true, true, true, false, true]

/-- Whether seven consecutive modules have exactly the colouring of `PAT`. -/
def matchesRun (module : Nat → Bool) : Bool := (List.range 7).map module == finderRun

/-- Part (c), finder-like runs, in rows and then in columns (rule R219). -/
def partC (g : Grid) (mc : Nat) : Nat :=
  (sumRange mc fun row => sumRange (mc - 6) fun col =>
    if matchesRun fun k => g.isDark row (col + k) then 40 else 0) +
  (sumRange mc fun col => sumRange (mc - 6) fun row =>
    if matchesRun fun k => g.isDark (row + k) col then 40 else 0)

/-- The number of dark modules (rule R220). -/
def darkCount (g : Grid) (mc : Nat) : Nat := sumRange mc fun row => sumRange mc fun col => (g.isDark row col).toNat

/-- The numerator of part (d) over `mc^2` (rule R220). -/
def partDNumerator (g : Grid) (mc : Nat) : Nat := ((200 * darkCount g mc : Int) - 100 * mc ^ 2).natAbs

/-- A score: the pair (N, F), which stands for `N + F / mc^2` (rule R221). -/
structure Score where
  n : Nat
  f : Nat
  deriving DecidableEq, Repr

/-- `lost_point(G, mc)` (rule R221). -/
def lostPoint (g : Grid) (mc : Nat) : Score := ⟨partA g mc + partB g mc + partC g mc, partDNumerator g mc⟩

/-- The comparison key `N * mc^2 + F` (rule R221). -/
def Score.key (sc : Score) (mc : Nat) : Nat := sc.n * mc ^ 2 + sc.f

/-- Phases in which the grid is fully resolved (rules R222, R273, R287). -/
def Phase.resolved (p : Phase) : Bool := p == .dataMapped || p == .finalized

/-- `CSR.SCORE_N` and `CSR.SCORE_F` (rule R52). -/
def State.writeScore (s : State) (sc : Score) : State := { s with scoreN := countWord sc.n, scoreF := countWord sc.f }

/-- The rule of `SCORE` (rule R222). -/
def bodyScore (s : State) : Except Stop State :=
  if !s.phase.resolved then raise s .sequenceError s.phase.code
  else .ok (s.writeScore (lostPoint s.grid s.modCnt))

/-- `SCORE` (rule R222). -/
def execScore (s : State) : Host.Outcome State Fault Refusal :=
  .next (complete .score Outputs.kept s (bodyScore s))

end Sys2Proof.Machine
end

