-- ==== Sys2Proof/Machine/Matrix.lean ====
section
/-! DEFINITION. The symbol-matrix layout engine (45_matrix.md): the structural patterns (rules R252 to R266), the
data placement (rule R271), the mask selection (rule R280), and the commands GRID.*, MAKEIMPL, MAKE, Q.COUNT,
Q.DARK. `mc` is the side of the grid in force, MODCNT. -/

namespace Sys2Proof.Machine

/-- `version*4 + 17` (rules R41, R51). -/
def sideOf (version : Nat) : Nat := version * 4 + 17

/-! ## Step 1 -/

/-- The rule of `GRID.INIT` (rule R251). -/
def bodyGridInit (s : State) : Except Stop State :=
  let v := s.version.toNat
  if !versionInRange v then raise s .tableEntryMissing (tableIndex v s.level.toNat)
  else .ok { s with
    modCnt := sideOf v, grid := Grid.blank (sideOf v), phase := .empty, final := false, testF := false }

/-- `GRID.INIT` (rule R251). -/
def execGridInit (s : State) : Host.Outcome State Fault Refusal :=
  .next (complete .gridInit Outputs.kept s (bodyGridInit s))

/-! ## Steps 2 to 6: structural patterns -/

/-- The integers from `first` on, `n` of them. -/
def intRange (first : Int) (n : Nat) : List Int := (List.range n).map fun (i : Nat) => first + (i : Int)

/-- The offsets of a square footprint, row by row. -/
def offsets (first : Int) (n : Nat) : List (Int × Int) :=
  (intRange first n).flatMap fun r => (intRange first n).map fun c => (r, c)

/-- The colour of a finder pattern at an offset from its top-left cell (rule R252). -/
def finderDark (r c : Int) : Bool :=
  (0 ≤ r && r ≤ 6 && (c == 0 || c == 6)) || (0 ≤ c && c ≤ 6 && (r == 0 || r == 6)) ||
    (2 ≤ r && r ≤ 4 && 2 ≤ c && c ≤ 4)

/-- `place_finder(row, col)`: the square and its separator, as far as they lie in the grid (rules R252, R253). -/
def placeFinder (mc : Nat) (row col : Int) (g : Grid) : Grid :=
  (offsets (-1) 9).foldl (fun g (r, c) =>
    if row + r ≤ -1 ∨ mc ≤ row + r ∨ col + c ≤ -1 ∨ mc ≤ col + c then g
    else g.put (row + r) (col + c) (finderDark r c)) g

/-- Step 2: the three finder patterns (rule R252). -/
def placeFinders (mc : Nat) (g : Grid) : Grid :=
  placeFinder mc 0 ((mc : Int) - 7) (placeFinder mc ((mc : Int) - 7) 0 (placeFinder mc 0 0 g))

/-- The colour of an alignment pattern at an offset from its centre (rule R254). -/
def alignmentDark (r c : Int) : Bool := r == -2 || r == 2 || c == -2 || c == 2 || (r == 0 && c == 0)

/-- One alignment pattern, skipped whole when its centre is set (rule R254). -/
def placeAlignmentAt (row col : Nat) (g : Grid) : Grid :=
  if g.cell row col ≠ .unset then g
  else (offsets (-2) 5).foldl (fun g (r, c) => g.put (row + r) (col + c) (alignmentDark r c)) g

/-- Step 3: `place_alignment()` (rule R254). -/
def placeAlignment (rom : Config.Rom) (version : Nat) (g : Grid) : Grid :=
  let pos := rom.patternPosition.getD (version - 1) []
  pos.foldl (fun g row => pos.foldl (fun g col => placeAlignmentAt row col g) g) g

/-- A cell is written only while it is `Unset` (rules R255, R271). -/
def Grid.putUnset (g : Grid) (row col : Nat) (dark : Bool) : Grid :=
  if g.cell row col = .unset then g.put row col dark else g

/-- Step 4: `place_timing()`, column 6 and then row 6 (rule R255). -/
def placeTiming (mc : Nat) (g : Grid) : Grid :=
  let g := (List.range mc).foldl (fun g r => g.putUnset r 6 (r % 2 == 0)) g
  (List.range mc).foldl (fun g c => g.putUnset 6 c (c % 2 == 0)) g

/-- `vrow(i)` (rule R261). -/
def vrow (mc i : Nat) : Nat := if i ≤ 5 then i else if i ≤ 7 then i + 1 else mc - 15 + i

/-- `hcol(i)` (rule R261). -/
def hcol (mc i : Nat) : Nat := if i ≤ 7 then mc - 1 - i else if i = 8 then 7 else 14 - i

/-- The 5-bit format data word (rule R262). -/
def formatData (rom : Config.Rom) (level : Nat) (mask : Fin 8) : Nat :=
  (rom.fmtLevelCode.getD level 0 <<< 3) ||| mask.val

/-- Step 5: `place_format(test, mask)`, the dark module last (rules R260, R263). -/
def placeFormat (rom : Config.Rom) (mc level : Nat) (test : Bool) (mask : Fin 8) (g : Grid) : Grid :=
  let bits := bchFormat rom (formatData rom level mask)
  let g := (List.range 15).foldl (fun g i =>
    let dark := !test && bits.testBit i
    (g.put (vrow mc i) 8 dark).put 8 (hcol mc i) dark) g
  g.put (mc - 8 : Nat) 8 (!test)

/-- Step 6: `place_version(test)` (rules R265, R266). -/
def placeVersion (rom : Config.Rom) (mc version : Nat) (test : Bool) (g : Grid) : Grid :=
  if version < 7 then g
  else
    let bits := bchVersion rom version
    (List.range 18).foldl (fun g i =>
      let dark := !(test && rom.verInfoBlankInTest) && bits.testBit i
      (g.put (i / 3 : Nat) (i % 3 + mc - 11 : Nat) dark).put (i % 3 + mc - 11 : Nat) (i / 3 : Nat) dark) g

/-- Steps 2 to 6 in order (rule R268). -/
def structuralPatterns (rom : Config.Rom) (mc version level : Nat) (test : Bool) (mask : Fin 8) (g : Grid) : Grid :=
  placeVersion rom mc version test
    (placeFormat rom mc level test mask (placeTiming mc (placeAlignment rom version (placeFinders mc g))))

/-- The mask operand of the grid commands, checked before anything else (rules R268, R272, R276). -/
def maskOperand (mask : BitVec 4) (s : State) : Except Stop (Fin 8) :=
  match maskPattern? mask.toNat with
  | some p => .ok p
  | none => raise s .maskPattern mask.toNat

/-- The rule of `GRID.STRUCT` (rule R268). -/
def bodyGridStruct (rom : Config.Rom) (test : Bool) (mask : BitVec 4) (s : State) : Except Stop State := do
  let p ← maskOperand mask s
  if s.phase ≠ .empty ∨ s.modCnt = 0 then raise s .sequenceError s.phase.code
  else if s.modCnt ≠ sideOf s.version.toNat then raise s .sequenceError s.phase.code
  else
    return { s with
      grid := structuralPatterns rom s.modCnt s.version.toNat s.level.toNat test p s.grid
      mask := p, testF := test, phase := .structuralPatternsPlaced }

/-- `GRID.STRUCT test, mask` (rule R268). -/
def execGridStruct (test : Bool) (mask : BitVec 4) (s : State) : Host.Outcome State Fault Refusal :=
  .next (complete (.gridStruct test mask) Outputs.kept s (bodyGridStruct rom test mask s))

/-! ## Steps 7 and 8: data -/

/-- The right columns of the column pairs, from column `col` leftwards: a right column 6 becomes 5 (rule R271(a)). -/
def pairColumns : (rounds : Nat) → (col : Nat) → List Nat
  | 0, _ => []
  | rounds + 1, col =>
    if col = 0 then []
    else
      let right := if col = 6 then 5 else col
      right :: pairColumns rounds (right - 2)

/-- The cells of one pass over a column pair: its rows upward or downward, the right cell of a row first
(rule R271(b)). -/
def passCells (mc : Nat) (upward : Bool) (right : Nat) : List (Nat × Nat) :=
  let rows := if upward then (List.range mc).reverse else List.range mc
  rows.flatMap fun row => [(row, right), (row, right - 1)]

/-- The cells of the passes in scan order, the direction alternating (rule R271(b)). -/
def scanPasses (mc : Nat) : (upward : Bool) → (columns : List Nat) → List (Nat × Nat)
  | _, [] => []
  | upward, right :: columns => passCells mc upward right ++ scanPasses mc (!upward) columns

/-- The order in which `mapData` visits the cells: the first pass runs upward from the bottom right (rule R271). -/
def scanOrder (mc : Nat) : List (Nat × Nat) := scanPasses mc true (pairColumns mc (mc - 1))

/-- The `n`-th bit of the codeword stream, most significant bit of each byte first; false after the last
(rules R66, R271(c), (d)). -/
def codewordBit (cw : List Byte) (n : Nat) : Bool := (cw.getD (n / 8) 0).getLsbD (7 - n % 8)

/-- One visit of the scan: an `Unset` cell takes the next bit, inverted where the predicate is true; a set cell
is passed over without consuming one (rule R271(c) to (e)). `n` counts the bits consumed: `byteIndex` is `n / 8`
and `bitIndex` is `7 - n % 8`. -/
def mapCell (cw : List Byte) (mask : Fin 8) (acc : Grid × Nat) (at' : Nat × Nat) : Grid × Nat :=
  let (g, n) := acc
  let (row, col) := at'
  if g.cell row col = .unset then (g.put row col (codewordBit cw n ^^ maskPredicate mask row col), n + 1) else (g, n)

/-- `mapData(mask)` (rule R271). -/
def mapData (mc : Nat) (cw : List Byte) (mask : Fin 8) (g : Grid) : Grid :=
  ((scanOrder mc).foldl (mapCell cw mask) (g, 0)).1

/-- The rule of `GRID.MAP` (rule R272). -/
def bodyGridMap (mask : BitVec 4) (s : State) : Except Stop State := do
  let p ← maskOperand mask s
  if s.phase ≠ .structuralPatternsPlaced then raise s .sequenceError s.phase.code
  else if s.modCnt ≠ sideOf s.version.toNat then raise s .sequenceError s.phase.code
  else if p ≠ s.mask then raise s .sequenceError s.phase.code
  else if !s.dcValid then raise s .sequenceError s.phase.code
  else return { s with grid := mapData s.modCnt s.cw p s.grid, phase := .dataMapped }

/-- `GRID.MAP mask` (rule R272). -/
def execGridMap (mask : BitVec 4) (s : State) : Host.Outcome State Fault Refusal :=
  .next (complete (.gridMap mask) Outputs.kept s (bodyGridMap mask s))

/-- The rule of `GRID.FIN` (rule R275). -/
def bodyGridFin (s : State) : Except Stop State :=
  if s.phase ≠ .dataMapped then raise s .sequenceError s.phase.code
  else if s.testF then raise s .sequenceError s.phase.code
  else .ok { s with phase := .finalized, final := true }

/-- `GRID.FIN` (rule R275). -/
def execGridFin (s : State) : Host.Outcome State Fault Refusal :=
  .next (complete .gridFin Outputs.kept s (bodyGridFin s))

/-- `ensure_data()` (rule R270). -/
def ensureData (rom : Config.Rom) (s : State) : Except Stop State :=
  if s.dcValid then .ok s
  else do
    let s ← bodyBbClr s
    let s ← bodyDataSeg rom s
    let s ← bodyDataFin rom s
    bodyRsEnc rom s

/-- The rule of `MAKEIMPL`, steps 1 to 8 (rule R276). -/
def bodyMakeimpl (rom : Config.Rom) (test : Bool) (mask : BitVec 4) (s : State) : Except Stop State := do
  let _ ← maskOperand mask s
  let s ← bodyGridInit s
  let s ← bodyGridStruct rom test mask s
  let s ← ensureData rom s
  bodyGridMap mask s

/-- `MAKEIMPL test, mask` (rule R276). -/
def execMakeimpl (test : Bool) (mask : BitVec 4) (s : State) : Host.Outcome State Fault Refusal :=
  .next (complete (.makeimpl test mask) Outputs.bbCwFree s (bodyMakeimpl rom test mask s))

/-! ## Step 9: mask selection -/

/-- A trial of the mask search: its pattern and its score. -/
structure Trial where
  pattern : Fin 8
  score : Score
  deriving DecidableEq, Repr

/-- A pattern as the mask field of `MAKEIMPL`. -/
def maskBits (p : Fin 8) : BitVec 4 := BitVec.ofNat 4 p.val

/-- One trial: `MAKEIMPL 1, p` and the score of its grid (rule R280). -/
def runTrial (rom : Config.Rom) (p : Fin 8) (s : State) : Except Stop (State × Trial) := do
  let s ← bodyMakeimpl rom true (maskBits p) s
  return (s, ⟨p, lostPoint s.grid s.modCnt⟩)

/-- The better of the best so far and a later candidate: replaced only when `key(best) > key(p)` (rule R223). -/
def betterTrial (mc : Nat) (best candidate : Trial) : Trial :=
  if best.score.key mc > candidate.score.key mc then candidate else best

/-- The trials of the remaining patterns, ascending, with the best so far (rule R280). -/
def runTrials (rom : Config.Rom) : (patterns : List (Fin 8)) → (s : State) → (best : Trial) →
    Except Stop (State × Trial)
  | [], s, best => .ok (s, best)
  | p :: ps, s, best => do
    let (s, candidate) ← runTrial rom p s
    runTrials rom ps s (betterTrial s.modCnt best candidate)

/-- `select_mask()` (rule R280). -/
def selectMask (rom : Config.Rom) (s : State) : Except Stop (State × Trial) := do
  let (s, first) ← runTrial rom 0 s
  runTrials rom [1, 2, 3, 4, 5, 6, 7] s first

/-- The version of `MAKE`: selected when VERSION is 0, else the override, looked up (rule R281). -/
def resolveVersion (rom : Config.Rom) (s : State) : Except Stop State :=
  if s.version = 0 then do
    let v ← liftRaise s (selectVersion rom s.level.toNat (utf8Length s.text))
    return { s with version := BitVec.ofNat 8 v }
  else do
    let _ ← s.blocks rom
    return s

/-- The rule of `MAKE` (rule R281). -/
def bodyMake (rom : Config.Rom) (s : State) : Except Stop State := do
  let s ← bodySegEnc s.clearDcValid
  let s ← resolveVersion rom s
  let (s, best) ← selectMask rom s
  let s ← bodyMakeimpl rom false (maskBits best.pattern) s
  let s ← bodyGridFin s
  return { s with mask := best.pattern }.writeScore best.score

/-- `MAKE` (rule R281). -/
def execMake (s : State) : Host.Outcome State Fault Refusal :=
  .next (complete .make Outputs.segBbCwFree s (bodyMake rom s))

/-! ## The query interface -/

/-- `Q.COUNT xd` (rule R286). -/
def execQCount (rd : XReg) (s : State) : Host.Outcome State Fault Refusal :=
  .next (complete (.qCount rd) Outputs.kept s (.ok (s.writeX rd s.modCnt)))

/-- The rule of `Q.DARK`: row, then column, then phase (rule R287). -/
def bodyQDark (rd ra rb : XReg) (s : State) : Except Stop State :=
  let row := s.readX ra
  let col := s.readX rb
  if row < 0 ∨ (s.modCnt : Int) ≤ row then raise s .coordinate row
  else if col < 0 ∨ (s.modCnt : Int) ≤ col then raise s .coordinate col
  else if !s.phase.resolved then raise s .sequenceError s.phase.code
  else .ok (s.writeX rd (boolValue (s.grid.isDark row.toNat col.toNat)))

/-- `Q.DARK xd, xa, xb` (rule R287). -/
def execQDark (rd ra rb : XReg) (s : State) : Host.Outcome State Fault Refusal :=
  .next (complete (.qDark rd ra rb) Outputs.kept s (bodyQDark rd ra rb s))

end Sys2Proof.Machine
end

