-- ==== Sys2Proof/Machine/System.lean ====
section
/-! DEFINITION. The system commands: NOP, SET, RESET, CSRR, CSRW (46_system.md, rules R300 to R304). -/

namespace Sys2Proof.Machine

/-- `NOP` (rule R300). -/
def execNop (s : State) : Host.Outcome State Fault Refusal :=
  .next (complete .nop Outputs.kept s (.ok s))

/-- `SET xa, imm16` (rule R301). -/
def execSet (ra : XReg) (imm16 : BitVec 16) (s : State) : Host.Outcome State Fault Refusal :=
  .next (complete (.set ra imm16) Outputs.kept s (.ok (s.writeX ra (sext16 imm16))))

/-- `RESET` (rule R302): the one command that executes in the faulted state, and the return from it. -/
def execReset (s : State) : Host.Outcome State Fault Refusal :=
  .next s.clear

/-- The rule of `CSRR` (rule R303); a reserved number is `IllegalCommand(W)`. -/
def bodyCsrr (ra : XReg) (csr : BitVec 16) (s : State) : Except Stop State :=
  match s.csrRead (zext16 csr) with
  | some w => .ok (s.writeXWord ra w)
  | none => raise s .illegalCommand (encode (.csrr ra csr)).toNat

/-- `CSRR xa, csr` (rule R303). -/
def execCsrr (ra : XReg) (csr : BitVec 16) (s : State) : Host.Outcome State Fault Refusal :=
  .next (complete (.csrr ra csr) Outputs.kept s (bodyCsrr ra csr s))

/-- The rule of `CSRW` (rule R304). -/
def bodyCsrw (csr : BitVec 16) (ra : XReg) (s : State) : Except Stop State :=
  match s.csrWrite (zext16 csr) s.x[ra] with
  | .written t => .ok t
  | .outOfRange => raise s .operandRange (s.readX ra)
  | .notWritable => raise s .illegalCommand (encode (.csrw csr ra)).toNat

/-- `CSRW csr, xa` (rule R304). -/
def execCsrw (csr : BitVec 16) (ra : XReg) (s : State) : Host.Outcome State Fault Refusal :=
  .next (complete (.csrw csr ra) Outputs.kept s (bodyCsrw csr ra s))

end Sys2Proof.Machine
end

