-- ==== Sys2Proof/Machine/Dispatch.lean ====
section
/-! DEFINITION. One arm per command of the opcode table (rule R85), each a direct call of its meaning. -/

namespace Sys2Proof.Machine

/-- The meaning of a command: rule R92, steps 1 and 3 to 5. -/
def exec (i : Instr) (s : State) : Host.Outcome State Fault Refusal :=
  match i with
  | .nop => Sys2Proof.Machine.execNop s
  | .set ra imm16 => Sys2Proof.Machine.execSet ra imm16 s
  | .reset => Sys2Proof.Machine.execReset s
  | .csrr ra csr => Sys2Proof.Machine.execCsrr ra csr s
  | .csrw csr ra => Sys2Proof.Machine.execCsrw csr ra s
  | .gfLog rd ra => Sys2Proof.Machine.execGfLog rd ra s
  | .gfExp rd ra => Sys2Proof.Machine.execGfExp rd ra s
  | .polyNew pd shift => Sys2Proof.Machine.execPolyNew pd shift s
  | .polyMul pd pa pb => Sys2Proof.Machine.execPolyMul pd pa pb s
  | .polyMod pd pa pb => Sys2Proof.Machine.execPolyMod pd pa pb s
  | .polyLen rd pa => Sys2Proof.Machine.execPolyLen rd pa s
  | .polyGet rd pa rb => Sys2Proof.Machine.execPolyGet rd pa rb s
  | .bbClr => Sys2Proof.Machine.execBbClr s
  | .bbPut ra rb => Sys2Proof.Machine.execBbPut ra rb s
  | .bbPutbit ra => Sys2Proof.Machine.execBbPutbit ra s
  | .bbGet rd ra => Sys2Proof.Machine.execBbGet rd ra s
  | .segEnc => Sys2Proof.Machine.execSegEnc s
  | .segLen rd => Sys2Proof.Machine.execSegLen rd s
  | .segWrite => Sys2Proof.Machine.execSegWrite s
  | .utf8Len rd => Sys2Proof.Machine.execUtf8Len rd s
  | .dataSeg => Sys2Proof.Machine.execDataSeg s
  | .dataFin => Sys2Proof.Machine.execDataFin s
  | .verSel rd ra => Sys2Proof.Machine.execVerSel rd ra s
  | .rsBlocks => Sys2Proof.Machine.execRsBlocks s
  | .rsGen pd ecCount => Sys2Proof.Machine.execRsGen pd ecCount s
  | .rsEnc => Sys2Proof.Machine.execRsEnc s
  | .bchFmt rd ra => Sys2Proof.Machine.execBchFmt rd ra s
  | .bchVer rd ra => Sys2Proof.Machine.execBchVer rd ra s
  | .bchDigit rd ra => Sys2Proof.Machine.execBchDigit rd ra s
  | .maskTst rd ra rb rc => Sys2Proof.Machine.execMaskTst rd ra rb rc s
  | .score => Sys2Proof.Machine.execScore s
  | .gridInit => Sys2Proof.Machine.execGridInit s
  | .gridStruct test mask => Sys2Proof.Machine.execGridStruct test mask s
  | .gridMap mask => Sys2Proof.Machine.execGridMap mask s
  | .gridFin => Sys2Proof.Machine.execGridFin s
  | .makeimpl test mask => Sys2Proof.Machine.execMakeimpl test mask s
  | .make => Sys2Proof.Machine.execMake s
  | .qCount rd => Sys2Proof.Machine.execQCount rd s
  | .qDark rd ra rb => Sys2Proof.Machine.execQDark rd ra rb s

end Sys2Proof.Machine
end

