-- ==== Sys2Proof/Machine/HostPort.lean ====
section
/-! DEFINITION. The host's transactions other than issuing a command (rules R60 to R62, R69, R330) and the reset
input (rules R57, R350, R351), and how one is taken from the port. A read changes nothing and is idempotent
(rules R62, R71); an access outside the contract is refused: it changes nothing and returns no value (rule R69).
They work in the faulted state as well (rule R330). -/

namespace Sys2Proof.Machine

/-! ## Taking a transaction from the port -/

/-- The transactions that only read (rules R61, R62). -/
def HostTxn.isRead : HostTxn → Bool
  | .read _ _ => true
  | .issue _ | .writeX _ _ | .writeCsr _ _ | .writeStg _ _ | .writeTxt _ _ | .writeSeg _ _ | .writeReadOnly _ _ _
  | .hardwareReset => false

/-- The port after a transaction has been taken: the remaining ones wait, no answer stands (log entry 4). A read
leaves the epoch of the free values as it is, so that the reads up to the next other transaction answer alike
(rules R62, R71; log entry 14). -/
def State.taken (s : State) (t : HostTxn) (rest : List HostTxn) : State :=
  { s with port := rest, reply := .none, freeIdx := if t.isRead then s.freeIdx else s.freeIdx + 1 }

/-! ## Reads -/

/-- The state after an answer. -/
def State.answer (s : State) (r : Reply) : State := { s with reply := r }

/-- An access with an index below the capacity of its space, else refused (rule R69). -/
def State.within (s : State) (capacity index : Nat) (access : State) : State :=
  if index < capacity then access else s

/-- The element of a memory at an index that its length register covers (rule R359(b)). -/
def Memory.used? {width : Nat} (m : Memory width) (length index : Nat) : Option (BitVec width) :=
  if index < length then some (m.read index) else none

/-- A read of one element: the stored one where the index is part of the space's value, else the free one of the
epoch and the index (rules R62, R69, R359(b) and (e)). -/
def State.readElement {width : Nat} (s : State) (capacity index : Nat) (stored : Option (BitVec width))
    (free : Nat → Nat → BitVec width) : State :=
  s.within capacity index (s.answer (.element ((stored.getD (free s.freeIdx index)).setWidth 32)))

/-- An entry of BLK at or beyond NBLK (rule R359(e)). -/
def State.freeBlock (s : State) (index : Nat) : RsBlock :=
  ⟨(Config.freeTotalCount s.freeIdx index).toNat, (Config.freeDataCount s.freeIdx index).toNat⟩

/-- A read of BLK (rules R39, R60, R359(e)). -/
def State.readBlk (s : State) (index : Nat) : State :=
  s.within Config.blkMax index (s.answer (.block (s.blk[index]?.getD (s.freeBlock index))))

/-- `HostRead(space, index)` (rules R60 to R62). -/
def State.hostRead (s : State) (sp : Space) (index : Nat) : State :=
  match sp with
  | .x => s.within Config.nXReg index (s.answer (.element s.x[Fin.ofNat 16 index]))
  | .csr =>
    match s.csrRead index with
    | some w => s.answer (.element w)
    | none => s
  | .p k => s.readElement Config.polyMax index (s.readP k)[index]? fun epoch => Config.freeReadP epoch k.val
  | .stg => s.readElement Config.polyMax index (s.stg.used? s.stgLen index) Config.freeReadStg
  | .txt => s.readElement Config.txtMax index (s.txt.used? s.txtLen index) Config.freeReadTxt
  | .seg => s.readElement Config.segMax index (s.seg.used? s.segLen index) Config.freeReadSeg
  | .bb => s.readElement Config.bbMaxBytes index s.bb.bytes[index]? Config.freeReadBb
  | .blk => s.readBlk index
  | .cw => s.readElement Config.cwMax index s.cw[index]? Config.freeReadCw
  | .grid => s
  | .rom => s

/-! ## Writes -/

/-- `HostWrite(X, index, value)` (rule R31). -/
def State.hostWriteX (s : State) (index : Nat) (v : Word) : State :=
  s.within Config.nXReg index (s.writeXWord (Fin.ofNat 16 index) v)

/-- `HostWrite(CSR, index, value)`: the effects of `CSRW`, refused where that faults (rules R53, R62, R69, R304). -/
def State.hostWriteCsr (s : State) (index : Nat) (v : Word) : State :=
  match s.csrWrite index v with
  | .written t => t
  | .outOfRange => s
  | .notWritable => s

/-- `HostWrite(STG, index, value)` (rule R35). -/
def State.hostWriteStg (s : State) (index : Nat) (v : Byte) : State :=
  s.within Config.polyMax index { s with stg := s.stg.write index v }

/-- `HostWrite(TXT, index, value)` (rule R36). -/
def State.hostWriteTxt (s : State) (index : Nat) (v : CodeUnit) : State :=
  s.within Config.txtMax index { s with txt := s.txt.write index v }

/-- `HostWrite(SEG, index, value)`, which clears DCVALID (rules R37, R55, R62). -/
def State.hostWriteSeg (s : State) (index : Nat) (v : Byte) : State :=
  s.within Config.segMax index { s with seg := s.seg.write index v, dcValid := false }

/-! ## The reset input -/

/-- The elements of STG and TXT and the scalar registers free (rules R57, R359(a), (b)). -/
def State.freeXStgTxt (s : State) : State :=
  { s with
    x := Vector.ofFn fun i : Fin 16 => Config.freeX s.freeIdx i.val
    stg := Memory.ofElements Config.polyMax (Config.freeStg s.freeIdx)
    txt := Memory.ofElements Config.txtMax (Config.freeTxt s.freeIdx) }

/-- The reset input: arbitrary values for the scalar registers and the elements of STG, TXT and SEG, then `RESET`
(rules R57, R350, R351). -/
def State.hardwareReset (s : State) : State := s.freeXStgTxt.freeSegElements.nextEpoch.clear

end Sys2Proof.Machine
end

