-- ==== Sys2Proof/Machine/Step.lean ====
section
/-! DEFINITION. One step: the unit takes the host's oldest waiting transaction, which takes effect entirely
(rules R61, R71, R73). There is no program counter and no fetch (rule R44): a command is the word of a `HostIssue`. -/

namespace Sys2Proof.Machine

/-- `HostIssue(w)` (rule R92): the word's command, or what an illegal word does. -/
def issueWord (w : Word) (s : State) : Host.Outcome State Fault Refusal :=
  match decode w with
  | .ok i => exec i s
  | .error _ => .next (illegalWord w s)

/-- What one transaction does to the unit, the answer of an earlier one being gone. -/
def perform (t : HostTxn) (s : State) : Host.Outcome State Fault Refusal :=
  match t with
  | .issue w => issueWord w s
  | .read sp index => .next (s.hostRead sp index)
  | .writeX index v => .next (s.hostWriteX index v)
  | .writeCsr index v => .next (s.hostWriteCsr index v)
  | .writeStg index v => .next (s.hostWriteStg index v)
  | .writeTxt index v => .next (s.hostWriteTxt index v)
  | .writeSeg index v => .next (s.hostWriteSeg index v)
  | .writeReadOnly _ _ _ => .next s
  | .hardwareReset => .next s.hardwareReset

/-- One step. With nothing at its port the unit waits (rules R61, R350). -/
def step (s : State) : Host.Outcome State Fault Refusal :=
  match s.port with
  | [] => .next s
  | t :: rest => perform t (s.taken t rest)

/-- The state with a table word issued before everything else that waits at the port: the very next step runs it. -/
def State.withFetchWord (s : State) (nbits w : Nat) : State :=
  { s with port := .issue (tableWord nbits w) :: s.port }

end Sys2Proof.Machine
end

