-- ==== Sys2Proof/Safety.lean ====
section
/-! DEFINITION. The terms in which claims about the unit are made: the invariants of its state, the commands by
kind, and a reference description of its arithmetic, written apart from the machine (from the laws of the spec and
not from its tables and loops), against which the machine's results are stated. -/

namespace Sys2Proof.Machine

/-! ## Invariants -/

/-- Every length is within the capacity of its buffer (rules R9, R36 to R40, R53). -/
abbrev State.buffersBounded (s : State) : Prop :=
  s.stgLen ≤ Config.polyMax ∧ s.txtLen ≤ Config.txtMax ∧ s.segLen ≤ Config.segMax ∧
    s.bb.len ≤ 8 * Config.bbMaxBytes ∧ s.cw.length ≤ Config.cwMax ∧ s.blk.length ≤ Config.blkMax

/-- Every entry of BLK meets the invariant of an ErrorCorrectionBlock, and its counts are 8 bits wide
(rules R39, R60). -/
abbrev State.blocksValid (s : State) : Prop :=
  ∀ b ∈ s.blk, 0 < b.dataCount ∧ b.dataCount ≤ b.totalCount ∧ b.totalCount < 256

/-- The element memories are in canonical form and inside their capacities (rule R60). -/
abbrev State.memoriesCanonical (s : State) : Prop :=
  (s.stg.wf = true ∧ s.stg.below Config.polyMax = true) ∧
    (s.txt.wf = true ∧ s.txt.below Config.txtMax = true) ∧ (s.seg.wf = true ∧ s.seg.below Config.segMax = true)

/-- A polynomial as the construction makes it: not longer than POLY_MAX, and its leading coefficient non-zero
unless all its coefficients are zero (rules R33, R34). -/
abbrev Poly.constructed (c : Poly) : Prop :=
  c.length ≤ Config.polyMax ∧ (c.head? = some 0 → ∀ a ∈ c, a = 0)

/-- Every polynomial register holds such a polynomial (rule R34). -/
abbrev State.polysConstructed (s : State) : Prop := ∀ k : PReg, (s.readP k).constructed

/-- `ceil(BBLEN/8)` bytes are in use, and bits not yet appended are 0 (rule R38). -/
abbrev BitBuffer.wellFormed (b : BitBuffer) : Prop :=
  b.bytes.length = (b.len + 7) / 8 ∧ ∀ k < 8 * b.bytes.length, b.len ≤ k → b.get k = false

/-- The sides a grid may have (rules R41, R51). -/
abbrev legalSide (mc : Nat) : Prop := ∃ v ∈ List.range' 1 40, mc = sideOf v

/-- The grid is square with side MODCNT, the side is legal, and the cells are as the phase says: all `Unset` in
`Empty`, column 6 set after the structural patterns, none `Unset` from `DataMapped` on; FINAL and TESTF go with
the phase (rules R41, R50, R51, R56, R273). -/
abbrev State.gridMatchesPhase (s : State) : Prop :=
  (s.modCnt = 0 ∨ legalSide s.modCnt) ∧
    (s.grid.length = s.modCnt ∧ ∀ row ∈ s.grid, row.length = s.modCnt) ∧
    (s.phase ≠ .empty → s.modCnt ≠ 0) ∧
    (s.phase = .empty → ∀ row ∈ s.grid, ∀ c ∈ row, c = .unset) ∧
    (s.phase = .structuralPatternsPlaced → ∀ r < s.modCnt, s.grid.cell r 6 ≠ .unset) ∧
    (s.phase.resolved = true → ∀ row ∈ s.grid, ∀ c ∈ row, c ≠ .unset) ∧
    (s.final = true ↔ s.phase = .finalized) ∧
    (s.phase = .empty ∨ s.phase = .finalized → s.testF = false)

/-- FAULT, CAUSE, FINFO and FCMD are written together, and a faulted unit has no grid and no valid stream
(rules R54, R330). -/
abbrev State.faultRecorded (s : State) : Prop :=
  (s.fault = true ↔ s.cause ≠ none) ∧ (s.fault = false → s.finfo = 0 ∧ s.fcmd = 0) ∧
    (s.fault = true → s.phase = .empty ∧ s.modCnt = 0 ∧ s.grid = [] ∧ s.dcValid = false ∧ s.final = false ∧
      s.testF = false)

/-- While DCVALID is 1, CW is the codeword stream of the bit buffer for the version and the level in force
(rules R55, R186, R355). -/
def State.streamValid (s : State) : Prop :=
  s.dcValid = true → ∃ blocks, getRSBlocks rom s.version.toNat s.level.toNat = .ok blocks ∧
    s.bb.len = 8 * totalData blocks ∧ createBytes (s.bb.bytes.take (totalData blocks)) blocks = .ok s.cw

/-- The largest integer part of a score of a grid of side `mc` (rule R221). -/
def scoreBoundN (mc : Nat) : Nat := 6 * mc ^ 2 + 3 * (mc - 1) ^ 2 + 80 * mc * (mc - 6)

/-- The scores are within the bounds of the largest grid (rules R52, R221, R303). -/
abbrev State.scoresBounded (s : State) : Prop :=
  s.scoreN.toNat ≤ scoreBoundN Config.gridMax ∧ s.scoreF.toNat ≤ 100 * Config.gridMax ^ 2

/-- Everything a reset of either kind leaves at a value of the spec (rules R57, R302, R350): all but the scalar
registers and the elements of STG, TXT and SEG. -/
abbrev State.atReset (s : State) : Prop :=
  (∀ k : PReg, s.readP k = []) ∧ (s.stgLen = 0 ∧ s.txtLen = 0 ∧ s.segLen = 0) ∧
    (s.bb.len = 0 ∧ s.bb.bytes = [] ∧ s.blk = [] ∧ s.cw = []) ∧
    (s.modCnt = 0 ∧ s.grid = [] ∧ s.phase = .empty) ∧
    (s.fault = false ∧ s.final = false ∧ s.dcValid = false ∧ s.testF = false) ∧
    (s.cause = none ∧ s.finfo = 0 ∧ s.fcmd = 0) ∧
    (s.version = 0 ∧ s.level = 0 ∧ s.mask = 0 ∧ s.scoreN = 0 ∧ s.scoreF = 0)

/-! ## Runs -/

/-- Reads as the transactions that make them. -/
def readsOf (reads : List (Space × Nat)) : List HostTxn := reads.map fun r => .read r.1 r.2

/-- `n` steps one after another. -/
def runSteps : (n : Nat) → State → Host.Outcome State Fault Refusal
  | 0, s => .next s
  | n + 1, s =>
    match step s with
    | .next t => runSteps n t
    | .fault r => .fault r
    | .refused r => .refused r

/-- Commands executed one after another (rule R73). -/
def runCommands : List Instr → State → Host.Outcome State Fault Refusal
  | [], s => .next s
  | i :: is, s =>
    match exec i s with
    | .next t => runCommands is t
    | .fault r => .fault r
    | .refused r => .refused r

end Sys2Proof.Machine

/-! ## Commands by kind -/

namespace Sys2Proof

/-- The scalar register a command names as its destination (rule R31). -/
def Instr.scalarDest : Instr → Option XReg
  | .set ra _ | .csrr ra _ => some ra
  | .gfLog rd _ | .gfExp rd _ | .polyLen rd _ | .polyGet rd _ _ | .bbGet rd _ | .segLen rd | .utf8Len rd
  | .verSel rd _ | .bchFmt rd _ | .bchVer rd _ | .bchDigit rd _ | .maskTst rd _ _ _ | .qCount rd
  | .qDark rd _ _ => some rd
  | .nop | .reset | .csrw _ _ | .polyNew _ _ | .polyMul _ _ _ | .polyMod _ _ _ | .bbClr | .bbPut _ _
  | .bbPutbit _ | .segEnc | .segWrite | .dataSeg | .dataFin | .rsBlocks | .rsGen _ _ | .rsEnc | .score
  | .gridInit | .gridStruct _ _ | .gridMap _ | .gridFin | .makeimpl _ _ | .make => none

/-- The polynomial register a command names as its destination (rule R33). -/
def Instr.polyDest : Instr → Option PReg
  | .polyNew pd _ | .polyMul pd _ _ | .polyMod pd _ _ | .rsGen pd _ => some pd
  | .nop | .set _ _ | .reset | .csrr _ _ | .csrw _ _ | .gfLog _ _ | .gfExp _ _ | .polyLen _ _ | .polyGet _ _ _
  | .bbClr | .bbPut _ _ | .bbPutbit _ | .bbGet _ _ | .segEnc | .segLen _ | .segWrite | .utf8Len _ | .dataSeg
  | .dataFin | .verSel _ _ | .rsBlocks | .rsEnc | .bchFmt _ _ | .bchVer _ _ | .bchDigit _ _ | .maskTst _ _ _ _
  | .score | .gridInit | .gridStruct _ _ | .gridMap _ | .gridFin | .makeimpl _ _ | .make | .qCount _
  | .qDark _ _ _ => none

/-- The commands that write SEG (rule R60's table). -/
def Instr.writesSeg (i : Instr) : Bool := i == .segEnc || i == .make

/-- `MAKEIMPL`, with any operands. -/
def Instr.isMakeimpl : Instr → Bool
  | .makeimpl _ _ => true
  | _ => false

/-- The commands that write BB (rule R60's table). -/
def Instr.writesBb (i : Instr) : Bool :=
  match i with
  | .bbClr | .bbPut _ _ | .bbPutbit _ | .segWrite | .dataSeg | .dataFin | .makeimpl _ _ | .make => true
  | _ => false

/-- The commands that write CW (rule R60's table). -/
def Instr.writesCw (i : Instr) : Bool := i == .rsEnc || i.isMakeimpl || i == .make

/-- The commands that write GRID (rule R60's table). -/
def Instr.writesGrid (i : Instr) : Bool :=
  match i with
  | .gridInit | .gridStruct _ _ | .gridMap _ | .makeimpl _ _ | .make => true
  | _ => false

/-- The composite commands (rule R330(a)). -/
def Instr.composite (i : Instr) : Bool :=
  match i with
  | .segEnc | .segWrite | .dataSeg | .dataFin | .rsEnc | .gridStruct _ _ | .gridMap _ | .makeimpl _ _ | .make => true
  | _ => false

/-- The causes a command can raise with the supplied tables and the default capacities: the entries of rule R341's
table that stand without brackets. -/
def Instr.causes : Instr → List Machine.Cause
  | .gfLog _ _ => [.logZero, .operandRange]
  | .polyNew _ _ => [.bufferLimit]
  | .polyMul _ _ _ => [.operandRange, .logZero, .bufferLimit]
  | .polyMod _ _ _ => [.operandRange, .logZero]
  | .polyGet _ _ _ => [.operandRange]
  | .bbPut _ _ => [.operandRange, .bufferLimit]
  | .bbPutbit _ => [.bufferLimit]
  | .bbGet _ _ => [.operandRange]
  | .segWrite => [.bufferLimit]
  | .dataSeg => [.tableEntryMissing, .bufferLimit]
  | .dataFin => [.tableEntryMissing, .dataOverflow]
  | .verSel _ _ => [.operandRange, .tooLongData]
  | .rsBlocks => [.tableEntryMissing]
  | .rsEnc => [.tableEntryMissing, .sequenceError]
  | .bchFmt _ _ | .bchVer _ _ | .bchDigit _ _ => [.operandRange]
  | .maskTst _ _ _ _ => [.maskPattern, .operandRange]
  | .score => [.sequenceError]
  | .gridInit => [.tableEntryMissing]
  | .gridStruct _ _ | .gridMap _ => [.maskPattern, .sequenceError]
  | .gridFin => [.sequenceError]
  | .makeimpl _ _ => [.maskPattern, .tableEntryMissing, .dataOverflow]
  | .make => [.tooLongData, .tableEntryMissing, .dataOverflow]
  | .qDark _ _ _ => [.coordinate, .sequenceError]
  | .csrr _ _ => [.illegalCommand]
  | .csrw _ _ => [.illegalCommand, .operandRange]
  | .nop | .set _ _ | .reset | .polyLen _ _ | .bbClr | .segLen _ | .utf8Len _ | .qCount _ | .gfExp _ _ | .segEnc
  | .rsGen _ _ => []

end Sys2Proof

/-! ## The reference description -/

namespace Sys2Proof.Reference

open Sys2Proof.Machine

/-! ### The opcode map (rules R82, R85; spec/opcode_table.json) -/

/-- The `mask` and `match` columns of the opcode map, one pair a row. -/
def opcodeRows : List (Word × Word) :=
  [(0xFFFFFFFF, 0x00000000), (0xFF0F0000, 0x01000000), (0xFFFFFFFF, 0x02000000), (0xFF0F0000, 0x03000000),
   (0xFF0F0000, 0x04000000), (0xFF0FF0FF, 0x10000000), (0xFF0FF0FF, 0x11000000), (0xFFFFFC00, 0x20000000),
   (0xFFCCFCFF, 0x21000000), (0xFFCCFCFF, 0x22000000), (0xFFCFF0FF, 0x23000000), (0xFFC0F0FF, 0x24000000),
   (0xFFFFFFFF, 0x30000000)] ++
  [(0xFF00FFFF, 0x31000000), (0xFF0FFFFF, 0x32000000), (0xFF0FF0FF, 0x33000000), (0xFFFFFFFF, 0x34000000),
   (0xFFFFF0FF, 0x35000000), (0xFFFFFFFF, 0x36000000), (0xFFFFF0FF, 0x37000000), (0xFFFFFFFF, 0x38000000),
   (0xFFFFFFFF, 0x39000000), (0xFF0FF0FF, 0x3A000000), (0xFFFFFFFF, 0x40000000), (0xFFFFFC00, 0x41000000),
   (0xFFFFFFFF, 0x42000000)] ++
  [(0xFF0FF0FF, 0x50000000), (0xFF0FF0FF, 0x51000000), (0xFF0FF0FF, 0x52000000), (0xFF0000FF, 0x53000000),
   (0xFFFFFFFF, 0x54000000), (0xFFFFFFFF, 0x60000000), (0xFFFFFF70, 0x61000000), (0xFFFFFFF0, 0x62000000),
   (0xFFFFFFFF, 0x63000000), (0xFFFFFF70, 0x64000000), (0xFFFFFFFF, 0x65000000), (0xFFFFF0FF, 0x66000000),
   (0xFF00F0FF, 0x67000000)]

/-- A word selects a row of the map (rule R82). -/
def selectsRow (w : Word) (row : Word × Word) : Bool := w &&& row.1 == row.2

/-- A command word from the numbers in its fields (rule R81). -/
def commandWord (op ra rb rc rd imm8 : Nat) : Word :=
  BitVec.ofNat 32 (op * 2 ^ 24 + ra * 2 ^ 20 + rb * 2 ^ 16 + rc * 2 ^ 12 + rd * 2 ^ 8 + imm8)

/-- A command word of format I (rule R81). -/
def commandWordI (op ra imm16 : Nat) : Word := BitVec.ofNat 32 (op * 2 ^ 24 + ra * 2 ^ 20 + imm16)

/-! ### Control registers (rules R46, R50, R320) -/

/-- The causes in the order of their codes, which start at 1. -/
def causeOrder : List Cause :=
  [.logZero, .maskPattern, .coordinate, .rsBlock, .dataOverflow, .tooLongData, .tableEntryMissing, .illegalCommand,
   .sequenceError, .operandRange, .bufferLimit]

/-- The phases in the order of their numbers, which start at 0. -/
def phaseOrder : List Phase := [.empty, .structuralPatternsPlaced, .dataMapped, .finalized]

/-- STATUS, bit by bit. -/
def statusBits (s : State) : Word :=
  BitVec.ofNat 32 ((if s.fault then 1 else 0) + (if s.final then 2 else 0) + (if s.dcValid then 4 else 0) +
    (if s.testF then 8 else 0))

/-- CAUSE: 0, or the code of the cause. -/
def causeNumber (s : State) : Nat :=
  match s.cause with
  | none => 0
  | some c => causeOrder.idxOf c + 1

/-- The values of the control registers 0 to 16, in order. -/
def csrValues (s : State) : List Word :=
  [statusBits s, BitVec.ofNat 32 (causeNumber s), s.finfo, s.fcmd, BitVec.ofNat 32 s.version.toNat,
   BitVec.ofNat 32 s.level.toNat, BitVec.ofNat 32 s.mask.val, BitVec.ofNat 32 (phaseOrder.idxOf s.phase),
   BitVec.ofNat 32 s.modCnt, s.scoreN, s.scoreF, BitVec.ofNat 32 s.bb.len, BitVec.ofNat 32 s.txtLen,
   BitVec.ofNat 32 s.segLen, BitVec.ofNat 32 s.cw.length, BitVec.ofNat 32 s.stgLen, BitVec.ofNat 32 s.blk.length]

/-! ### The host's reads (rules R60, R69) -/

/-- The number of elements of a space that the host can read: its capacity, none for GRID and ROM. -/
def readCapacity : Space → Nat
  | .x => 16
  | .csr => 17
  | .p _ => 256
  | .stg => 256
  | .txt => 4096
  | .seg => 12291
  | .bb => 12294
  | .blk => 81
  | .cw => 3706
  | .grid => 0
  | .rom => 0

/-! ### The field GF(256) (rules R101(d), R104): bytes as polynomials over GF(2) modulo 0x11D -/

/-- Multiplication by 2: a left shift, reduced by 0x11D when it leaves the byte. -/
def double (a : Byte) : Byte := (a <<< 1) ^^^ (if a.getLsbD 7 then 0x1D else 0)

/-- Multiplication by `2^n`. -/
def timesPow2 (a : Byte) : Nat → Byte
  | 0 => a
  | n + 1 => double (timesPow2 a n)

/-- `2^n` in the field. -/
def pow2 (n : Nat) : Byte := timesPow2 1 n

/-- The exclusive or of a list of bytes: their sum in the field (rule R104(c)). -/
def fieldSum (l : List Byte) : Byte := l.foldr (· ^^^ ·) 0

/-- The total product of the field: the sum of `a * 2^i` over the bits `i` of `b`. -/
def fieldMul (a b : Byte) : Byte :=
  fieldSum ((List.range 8).map fun i => if b.getLsbD i then timesPow2 a i else 0)

/-! ### Polynomials over the field, highest-degree term first (rule R12) -/

/-- The product of two polynomials: coefficient `k` is the sum of `a[i] * b[k-i]`. -/
def polyMul (a b : Poly) : Poly :=
  (List.range (a.length + b.length - 1)).map fun k =>
    fieldSum ((List.range (k + 1)).map fun i => fieldMul (a.getD i 0) (b.getD (k - i) 0))

/-- A polynomial written with `n` coefficients, zeros in front. -/
def padLeft (n : Nat) (c : Poly) : Poly := List.replicate (n - c.length) 0 ++ c

/-- The sum of two polynomials of one length. -/
def polyAdd (a b : Poly) : Poly := List.zipWith (· ^^^ ·) a b

/-- The value of a polynomial at a point of the field. -/
def polyEval (c : Poly) (point : Byte) : Byte := c.foldl (fun acc a => fieldMul acc point ^^^ a) 0

/-- A word is a Reed-Solomon codeword with `ec` check bytes when it has the roots `2^0` to `2^(ec-1)`, that is,
when the generator of degree `ec` divides it (rules R182, R187(b)). -/
def isCodeword (c : Poly) (ec : Nat) : Prop := ∀ i < ec, polyEval c (pow2 i) = 0

/-! ### Bits, texts and segments (rules R38, R64, R65, R150, R151) -/

/-- The bits of a bit buffer, first appended first. -/
def bits (b : BitBuffer) : List Bool := (List.range b.len).map b.get

/-- The `width` low bits of a number, most significant first. -/
def msbBits (value width : Nat) : List Bool := (List.range width).map fun i => value / 2 ^ (width - 1 - i) % 2 == 1

/-- The bits of a sequence of bytes. -/
def byteBits (l : List Byte) : List Bool := l.flatMap fun b => msbBits b.toNat 8

/-- The bytes of one code unit, by division (rule R150). -/
def unitBytes (c : Nat) : List Nat :=
  if c < 128 then [c]
  else if c < 2048 then [192 + c / 64, 128 + c % 64]
  else [224 + c / 4096, 128 + c / 64 % 64, 128 + c % 64]

/-- The segment of a text: marked when some code unit is 128 or above (rule R151). -/
def segmentOf (units : List CodeUnit) : List Nat :=
  (if units.any fun c => 128 ≤ c.toNat then [239, 187, 191] else []) ++ units.flatMap fun c => unitBytes c.toNat

/-- The width of the length field (rule R156). -/
def lengthFieldWidth (version : Nat) : Nat := if version ≤ 9 then 8 else 16

/-- The total codeword counts of the versions 1 to 40 (the last column of rule R24's table). -/
def codewordTotals : List Nat :=
  [26, 44, 70, 100, 134, 172, 196, 242, 292, 346, 404, 466, 532, 581, 655, 733, 815, 901, 991, 1085] ++
  [1156, 1258, 1364, 1474, 1588, 1706, 1828, 1921, 2051, 2185, 2323, 2465, 2611, 2761, 2876, 3034, 3196, 3362,
   3532, 3706]

/-- The blocks of a version and a level (rule R180); empty where there is no entry. -/
def blocksOf (version level : Nat) : List RsBlock :=
  match getRSBlocks rom version level with
  | .ok blocks => blocks
  | .error _ => []

/-- The data codewords of a version and a level (rule R160). -/
def dataTotal (version level : Nat) : Nat := totalData (blocksOf version level)

/-- Byte 0 of every row, then byte 1 of every row, and so on; an exhausted row contributes nothing (rule R185). -/
def columnMajor : (columns : Nat) → (rows : List (List Byte)) → List Byte
  | 0, _ => []
  | n + 1, rows => rows.filterMap List.head? ++ columnMajor n (rows.map List.tail)

/-! ### The grid -/

/-- The distance between two indices. -/
def apart (a b : Nat) : Nat := max a b - min a b

/-- The number of rings between a cell and the centre of a concentric pattern. -/
def ring (row col centreRow centreCol : Nat) : Nat := max (apart row centreRow) (apart col centreCol)

/-- A finder pattern by rings: dark core (0 and 1), light, dark, and the light separator (rules R252, R253). -/
def finderColour (d : Nat) : Bool := d ≤ 1 || d == 3

/-- An alignment pattern by rings: dark centre, light, dark (rule R254). -/
def alignmentColour (d : Nat) : Bool := d != 1

/-- The centres of the three finder patterns of a grid of side `mc`. -/
def finderCentres (mc : Nat) : List (Nat × Nat) := [(3, 3), (mc - 4, 3), (3, mc - 4)]

/-- A cell lies in the footprint of a finder pattern. -/
def inFinder (mc row col : Nat) : Bool := (finderCentres mc).any fun p => ring row col p.1 p.2 ≤ 4

/-- The cells of column 8 that take the format bits 0 to 14, by row (rule R261). -/
def formatRows (mc : Nat) : List Nat :=
  [0, 1, 2, 3, 4, 5, 7, 8, mc - 7, mc - 6, mc - 5, mc - 4, mc - 3, mc - 2, mc - 1]

/-- The cells of row 8 that take the format bits 0 to 14, by column (rule R261). -/
def formatColumns (mc : Nat) : List Nat :=
  [mc - 1, mc - 2, mc - 3, mc - 4, mc - 5, mc - 6, mc - 7, mc - 8, 7, 5, 4, 3, 2, 1, 0]

/-- The centres of the alignment patterns that are placed: the combinations of the version's coordinates whose
centre is no finder cell (rules R25, R254). -/
def alignmentCentres (version : Nat) : List (Nat × Nat) :=
  let pos := patternPositionRows.getD (version - 1) []
  (pos.flatMap fun a => pos.map fun b => (a, b)).filter fun p => !inFinder (sideOf version) p.1 p.2

/-- A cell belongs to a structural region of the version (rules R42, R252 to R265). -/
def isStructural (version row col : Nat) : Bool :=
  let mc := sideOf version
  inFinder mc row col || (alignmentCentres version).any (fun p => ring row col p.1 p.2 ≤ 2) || row == 6 || col == 6 ||
    (col == 8 && (formatRows mc).contains row) || (row == 8 && (formatColumns mc).contains col) ||
    (row == mc - 8 && col == 8) ||
    (decide (7 ≤ version) &&
      ((row < 6 && mc - 11 ≤ col && col ≤ mc - 9) || (col < 6 && mc - 11 ≤ row && row ≤ mc - 9)))

/-- The place of a cell in the data scan of a grid of side `mc` (rule R271): column pairs from the right, column 6
left out, the first pair upward and then alternating, the right cell of a row first. -/
def scanRank (mc row col : Nat) : Nat :=
  let fromRight := if 6 < col then mc - 1 - col else mc - 2 - col
  let pass := fromRight / 2
  let down := if pass % 2 = 0 then mc - 1 - row else row
  pass * (2 * mc) + 2 * down + fromRight % 2

/-- The number of cells still `Unset` that the scan visits before a cell. -/
def freeCellsBefore (g : Grid) (mc row col : Nat) : Nat :=
  ((List.range mc).map fun r => ((List.range mc).filter fun c =>
    c != 6 && g.cell r c == .unset && decide (scanRank mc r c < scanRank mc row col)).length).sum

/-- The number of free cells of a grid of side `mc`. -/
def freeCells (g : Grid) (mc : Nat) : Nat :=
  ((List.range mc).map fun r => ((List.range mc).filter fun c => g.cell r c == .unset).length).sum

/-- Bit `n` of a codeword stream, most significant bit of each byte first, false past its end. -/
def streamBit (cw : List Byte) (n : Nat) : Bool := (byteBits cw).getD n false

/-! ### The penalty (rules R217 to R221), by counting cells -/

/-- All positions of an `h` by `w` rectangle. -/
def positions (h w : Nat) : List (Nat × Nat) := (List.range h).flatMap fun r => (List.range w).map fun c => (r, c)

/-- The cells of the grid at distance 1 from a cell, diagonals included, of its colour. -/
def sameAround (g : Grid) (mc : Nat) (p : Nat × Nat) : Nat :=
  ((positions mc mc).filter fun q =>
    q != p && q.1 ≤ p.1 + 1 && p.1 ≤ q.1 + 1 && q.2 ≤ p.2 + 1 && p.2 ≤ q.2 + 1 &&
      (g.isDark q.1 q.2 == g.isDark p.1 p.2)).length

/-- Part (a): a module with `n` like neighbours costs `n - 2` when `n` is 6 or more. -/
def penaltyA (g : Grid) (mc : Nat) : Nat :=
  ((positions mc mc).map fun p => if 6 ≤ sameAround g mc p then sameAround g mc p - 2 else 0).sum

/-- Part (b): 3 for each 2 by 2 block of one colour. -/
def penaltyB (g : Grid) (mc : Nat) : Nat :=
  3 * ((positions (mc - 1) (mc - 1)).filter fun p =>
    g.isDark p.1 p.2 == g.isDark (p.1 + 1) p.2 && g.isDark p.1 p.2 == g.isDark p.1 (p.2 + 1) &&
      g.isDark p.1 p.2 == g.isDark (p.1 + 1) (p.2 + 1)).length

/-- Whether seven modules are dark, light, dark, dark, dark, light, dark. -/
def finderLike (m : Nat → Bool) : Bool := m 0 && !m 1 && m 2 && m 3 && m 4 && !m 5 && m 6

/-- Part (c): 40 for each finder-like run in a row or in a column. -/
def penaltyC (g : Grid) (mc : Nat) : Nat :=
  40 * (((positions mc (mc - 6)).filter fun p => finderLike fun k => g.isDark p.1 (p.2 + k)).length +
    ((positions (mc - 6) mc).filter fun p => finderLike fun k => g.isDark (p.1 + k) p.2).length)

/-- The number of dark modules. -/
def darkModules (g : Grid) : Nat := (g.map fun row => row.count .dark).sum

/-- Part (d) over `mc^2`: the distance between 200 times the dark modules and 100 times all modules. -/
def penaltyD (g : Grid) (mc : Nat) : Nat :=
  max (200 * darkModules g) (100 * mc ^ 2) - min (200 * darkModules g) (100 * mc ^ 2)

/-- The comparison key of a score in SCORE_N and SCORE_F for a grid of side `mc` (rule R221). -/
def scoreKey (s : State) (mc : Nat) : Nat := s.scoreN.toNat * mc ^ 2 + s.scoreF.toNat

/-! ### The BCH words, as the spec prints them -/

/-- The 32 format words (rule R210's table). -/
def formatWords : List Nat :=
  [0x5412, 0x5125, 0x5E7C, 0x5B4B, 0x45F9, 0x40CE, 0x4F97, 0x4AA0, 0x77C4, 0x72F3, 0x7DAA, 0x789D, 0x662F, 0x6318,
   0x6C41, 0x6976] ++
  [0x1689, 0x13BE, 0x1CE7, 0x19D0, 0x0762, 0x0255, 0x0D0C, 0x083B, 0x355F, 0x3068, 0x3F31, 0x3A06, 0x24B4, 0x2183,
   0x2EDA, 0x2BED]

/-- The 64 version words (rule R212's table). -/
def versionWords : List Nat :=
  [0x00000, 0x01F25, 0x0216F, 0x03E4A, 0x042DE, 0x05DFB, 0x063B1, 0x07C94, 0x085BC, 0x09A99, 0x0A4D3, 0x0BBF6,
   0x0C762, 0x0D847, 0x0E60D, 0x0F928, 0x10B78, 0x1145D, 0x12A17, 0x13532, 0x149A6, 0x15683, 0x168C9, 0x177EC,
   0x18EC4, 0x191E1, 0x1AFAB, 0x1B08E, 0x1CC1A, 0x1D33F, 0x1ED75, 0x1F250] ++
  [0x209D5, 0x216F0, 0x228BA, 0x2379F, 0x24B0B, 0x2542E, 0x26A64, 0x27541, 0x28C69, 0x2934C, 0x2AD06, 0x2B223,
   0x2CEB7, 0x2D192, 0x2EFD8, 0x2F0FD, 0x302AD, 0x31D88, 0x323C2, 0x33CE7, 0x34073, 0x35F56, 0x3611C, 0x37E39,
   0x38711, 0x39834, 0x3A67E, 0x3B95B, 0x3C5CF, 0x3DAEA, 0x3E4A0, 0x3FB85]

/-- The two-bit level codes (rule R262). -/
def levelCode (level : Nat) : Nat := if level = 0 then 1 else if level = 1 then 0 else if level = 2 then 3 else 2

/-! ### Version selection (rules R26, R161, R162) -/

/-- The capacity of a version at a level. -/
def capacity (version level : Nat) : Nat := (capacityRows.getD (version - 1) []).getD level 0

/-- `v` is the smallest version that holds `length` bytes. -/
def smallestVersion (level : Nat) (length : Int) (v : Nat) : Prop :=
  1 ≤ v ∧ v ≤ 40 ∧ length ≤ capacity v level ∧ ∀ u, 1 ≤ u → u < v → (capacity u level : Int) < length

/-- The table index of a version and a level (rules R24, R327). -/
def missingIndex (s : State) : Int := ((s.version.toNat : Int) - 1) * 4 + s.level.toNat

/-- The bits of one segment: mode, length and payload (rule R158). -/
def segmentBits (s : State) : Nat := 4 + lengthFieldWidth s.version.toNat + 8 * s.segLen

/-- The data codewords for the version and the level in force. -/
def dataWords (s : State) : Nat := dataTotal s.version.toNat s.level.toNat

/-- The version in force is one of the tables. -/
abbrev versionLegal (s : State) : Prop := 1 ≤ s.version.toNat ∧ s.version.toNat ≤ 40

/-! ### What a fault leaves -/

/-- The state a fault leaves of a simple command, written out (rule R330). -/
def faulted (w : Word) (cause : Cause) (info : Int) (s : State) : State :=
  { s with
    fault := true, cause := some cause, finfo := BitVec.ofInt 32 info, fcmd := w
    dcValid := false, final := false, testF := false, phase := .empty, modCnt := 0, grid := [] }

end Sys2Proof.Reference
end

