-- ==== Sys2Proof/Certificates/Slice0/Obligations.lean ====
section
/-! DEFINITION. The statements for the provers, in the terms of Sys2Proof/Safety.lean. Each docstring says which rules
it formalises and names what in it is the model's own. A result statement whose conclusion is an equation
`exec i s = .next t` is the completion statement of its command as well, and, `t` being written as a change of `s`,
its frame: whatever `t` does not name is unchanged, memory included (the elements of STG, TXT and SEG behind their
length register, on which rule R359(b) lets a model not rely, by log entry 13). -/

open Sys2Proof Sys2Proof.Machine Sys2Proof.Reference

/-! ## Encoding -/

/-- Rules R80 to R85: the word of every command, with every operand, decodes to that command. -/
def Obligations.DecodeInvertsEncode : Prop := ∀ i : Instr, decode (encode i) = .ok i

/-- Rules R82, R84, R86: a word decodes to a command only if it is that command's own word, every must-be-zero bit
included, so no second word stands for a command. -/
def Obligations.DecodedWordIsItsOwnEncoding : Prop := ∀ (w : Word) (i : Instr), decode w = .ok i → encode i = w

/-- Rules R82, R86, R328: the words that are commands are exactly those a row of the opcode map selects under its
mask; every other word, issued to a unit that is not faulted, raises `IllegalCommand` with FINFO and FCMD the word
and changes nothing but what a fault changes. -/
def Obligations.WordsOffTheMapAreIllegal : Prop :=
  (∀ w : Word, (∃ i, decode w = .ok i) ↔ ∃ row ∈ opcodeRows, selectsRow w row = true) ∧
  ∀ (w : Word) (s : State), s.fault = false → (∀ row ∈ opcodeRows, selectsRow w row = false) →
    issueWord w s = .next (faulted w .illegalCommand w.toNat s)

/-- Rules R81 to R85, R301, R303, R304: words written out from the encoding tables, one of every format. -/
def Obligations.SampleWordsDecode : Prop :=
  decode 0x00000000 = .ok .nop ∧ decode 0x0120FFFF = .ok (.set 2 0xFFFF) ∧ decode 0x03300008 = .ok (.csrr 3 8) ∧
  decode 0x04100005 = .ok (.csrw 5 1) ∧ decode 0x10100200 = .ok (.gfLog 2 1) ∧
  decode 0x20000105 = .ok (.polyNew 1 5) ∧ decode 0x21120300 = .ok (.polyMul 3 1 2) ∧
  decode 0x23100300 = .ok (.polyLen 3 1) ∧ decode 0x24120300 = .ok (.polyGet 3 1 2) ∧
  decode 0x31120000 = .ok (.bbPut 1 2) ∧ decode 0x32F00000 = .ok (.bbPutbit 15) ∧
  decode 0x35000A00 = .ok (.segLen 10) ∧ decode 0x53123400 = .ok (.maskTst 4 1 2 3) ∧
  decode 0x61000083 = .ok (.gridStruct true 3) ∧ decode 0x6200000F = .ok (.gridMap 15) ∧
  decode 0x64000007 = .ok (.makeimpl false 7) ∧ decode 0x67120300 = .ok (.qDark 3 1 2)

/-- Rules R61, R73, R92: the host's transactions take effect in its order, and one that issues a word which decodes to
a command runs that command. The rest is the model's own form (log entries 4 and 6): that the transactions wait in a
list, that a step takes the oldest one, clears the last answer and begins a new epoch of the free values, and that a
step with nothing waiting answers the same state. -/
def Obligations.StepRunsTheDecodedCommand : Prop :=
  (∀ (s : State) (w : Word) (rest : List HostTxn) (i : Instr), s.port = .issue w :: rest → decode w = .ok i →
    step s = exec i { s with port := rest, reply := .none, freeIdx := s.freeIdx + 1 }) ∧
  ∀ s : State, s.port = [] → step s = .next s

/-! ## Faults and reset -/

/-- Rule R331 (with R92 step 1): a faulted unit refuses every word but `RESET`, the illegal ones included, and the
record of its fault stays; `RESET` executes. -/
def Obligations.FaultedUnitRefusesAllButReset : Prop :=
  ∀ (w : Word) (s : State), s.fault = true →
    (w ≠ 0x02000000 → issueWord w s = .next s) ∧
    (w = 0x02000000 → ∃ t, issueWord w s = .next t ∧ t.fault = false ∧ t.atReset)

/-- Rule R336: from the faulted state only the word of `RESET` and the reset input lead out, and what they leave is
the reset state, nothing restored; `RESET` itself cannot fault. -/
def Obligations.OnlyResetLeavesTheFaultedState : Prop :=
  (∀ s t : State, s.fault = true → step s = .next t → t.fault = false →
    ((∃ rest, s.port = .issue 0x02000000 :: rest) ∨ ∃ rest, s.port = .hardwareReset :: rest) ∧ t.atReset) ∧
  ∀ s : State, ∃ t, exec .reset s = .next t ∧ t.fault = false

/-- Rule R302: `RESET`, its word, what it clears, and what it keeps: the scalar registers and the elements of STG,
TXT and SEG. It executes faulted or not, and is the only command that executes while FAULT is 1. -/
def Obligations.ResetClearsAllButElements : Prop :=
  encode .reset = 0x02000000 ∧
  (∀ s : State, exec .reset s = .next { s with
    p := Vector.replicate 4 [], stgLen := 0, txtLen := 0, segLen := 0, bb := ⟨[], 0⟩, blk := [], cw := []
    modCnt := 0, phase := .empty, grid := []
    fault := false, final := false, dcValid := false, testF := false, cause := none, finfo := 0, fcmd := 0
    version := 0, level := 0, mask := 0, scoreN := 0, scoreF := 0 }) ∧
  ∀ (i : Instr) (s : State), i ≠ .reset → s.fault = true → exec i s = .next s

/-- Rules R57, R350, R351: the reset input leaves every register at the value of the reset table and does what
`RESET` does after arbitrary values have been put into the scalar registers and the elements of STG, TXT and SEG;
the state after reset has the values of the table, and waits. That `State.reset` has 0 in those registers and
elements is the model's choice (log entry 1) and no part of this statement. That the reset input is one of the waiting
transactions, and that a step of a waiting unit answers the same state, is the model's form (log entry 4). -/
def Obligations.HardwareResetIsResetOfArbitraryElements : Prop :=
  (∀ (s : State) (rest : List HostTxn), s.port = .hardwareReset :: rest →
    ∃ (x : Vector Word 16) (stg : Memory 8) (txt : Memory 16) (seg : Memory 8) (n : Nat) (t : State),
      step s = .next t ∧ t.atReset ∧
      exec .reset { s with
        port := rest, reply := .none, x := x, stg := stg, txt := txt, seg := seg, freeIdx := n } = .next t) ∧
  State.reset.atReset ∧ step State.reset = .next State.reset

/-- Rule R330: what a command that faults leaves. The record names a cause and the command's own word, the flags are
cleared, the grid is dropped. (a) A simple command changes nothing else. (b) A composite one leaves free only the
buffers it writes; `MAKE` leaves VERSION as it was or at the version it selected. (c) The rest is never changed.
That MASK keeps the pattern a faulting `MAKEIMPL` or `MAKE` wrote before the fault is the model's reading
(log entry 9): the statement leaves MASK open there. -/
def Obligations.FaultEntryRecordsAndDropsTheGrid : Prop :=
  ∀ (i : Instr) (s t : State), s.fault = false → exec i s = .next t → t.fault = true →
    (t.cause ≠ none ∧ t.fcmd = encode i ∧ t.dcValid = false ∧ t.final = false ∧ t.testF = false ∧
      t.phase = .empty ∧ t.modCnt = 0 ∧ t.grid = []) ∧
    (i.composite = false → ∃ cause info, t = faulted (encode i) cause info s) ∧
    ((i.writesSeg = false → t.seg = s.seg ∧ t.segLen = s.segLen) ∧ (i.writesBb = false → t.bb = s.bb) ∧
      (i.writesCw = false → t.cw = s.cw) ∧ (i ≠ .make → t.version = s.version) ∧
      (i = .make → t.version = s.version ∨
        (s.version = 0 ∧ smallestVersion s.level.toNat (segmentOf s.text).length t.version.toNat)) ∧
      (i.isMakeimpl = false → i ≠ .make → t.mask = s.mask)) ∧
    (t.x = s.x ∧ t.p = s.p ∧ t.stg = s.stg ∧ t.stgLen = s.stgLen ∧ t.txt = s.txt ∧ t.txtLen = s.txtLen ∧
      t.level = s.level ∧ t.scoreN = s.scoreN ∧ t.scoreF = s.scoreF ∧ t.blk = s.blk)

/-- Rule R341: with the supplied tables and the default capacities a command raises only the causes its row of the
table lists without brackets, and a command not listed cannot fault. -/
def Obligations.CommandsRaiseOnlyTheirListedCauses : Prop :=
  ∀ (i : Instr) (s t : State), s.buffersBounded → s.fault = false → exec i s = .next t → t.fault = true →
    ∃ c ∈ i.causes, t.cause = some c

/-! ## Invariants -/

/-- The invariants of the statements below hold after reset (rules R34, R38, R39, R41, R50 to R57). The part that
concerns the elements of STG, TXT and SEG rests on log entry 1. -/
def Obligations.ResetStateMeetsTheInvariants : Prop :=
  State.reset.buffersBounded ∧ State.reset.blocksValid ∧ State.reset.memoriesCanonical ∧
  State.reset.polysConstructed ∧ State.reset.bb.wellFormed ∧ State.reset.gridMatchesPhase ∧
  State.reset.faultRecorded ∧ State.reset.streamValid ∧ State.reset.scoresBounded

/-- Rules R9, R36 to R40, R53, R329: no step takes a length past the capacity of its buffer; the entries of BLK stay
valid blocks. That the lengths a faulting composite command leaves, which rule R330(b) leaves unspecified, are within
the capacities too is the model's reading (log entry 12). -/
def Obligations.BuffersStayWithinCapacity : Prop :=
  ∀ s t : State, s.buffersBounded → s.blocksValid → step s = .next t → t.buffersBounded ∧ t.blocksValid

/-- Rule R60: no step leaves the canonical form of the element memories (the model's form, log entry 2) or writes
past a capacity. -/
def Obligations.MemoriesStayCanonical : Prop :=
  ∀ s t : State, s.memoriesCanonical → step s = .next t → t.memoriesCanonical

/-- Rules R33, R34: every polynomial register keeps a value as the construction makes it: at most POLY_MAX
coefficients, the leading one non-zero unless all are zero. -/
def Obligations.PolynomialRegistersStayConstructed : Prop :=
  ∀ s t : State, s.polysConstructed → step s = .next t → t.polysConstructed

/-- Rules R38, R140: the bit buffer keeps `ceil(BBLEN/8)` bytes with zero bits behind the last one. That it does so
through the fault of a composite command, whose bit buffer rule R330(b) leaves unspecified, is the model's reading (log
entry 12). And no command but `BB.CLR`, `RESET` and the composite commands that begin with a clear removes bits. -/
def Obligations.BitBufferStaysWellFormedAndAppendOnly : Prop :=
  (∀ s t : State, s.bb.wellFormed → step s = .next t → t.bb.wellFormed) ∧
  ∀ (i : Instr) (s t : State), s.bb.wellFormed → s.fault = false → exec i s = .next t → t.fault = false →
    i ≠ .bbClr → i ≠ .reset → i.isMakeimpl = false → i ≠ .make → ∃ more, bits t.bb = bits s.bb ++ more

/-- Rules R41, R50, R51, R56, R273: the grid is square with a legal side; it is blank in `Empty`, has column 6 set
after the structural patterns and no `Unset` cell from `DataMapped` on; FINAL is 1 exactly in `Finalized`; TESTF is
0 in `Empty` and in `Finalized`. Every step keeps this. -/
def Obligations.GridStaysAsItsPhaseSays : Prop :=
  ∀ s t : State, s.gridMatchesPhase → step s = .next t → t.gridMatchesPhase

/-- Rules R54, R330, R331: FAULT, CAUSE, FINFO and FCMD are written together and cleared together, and while FAULT is
1 there is no grid, no valid stream and no other flag. Every step keeps this, host accesses included. -/
def Obligations.FaultRecordStaysConsistent : Prop :=
  ∀ s t : State, s.faultRecorded → step s = .next t → t.faultRecorded

/-- Rules R55, R77, R186, R355: whenever DCVALID is 1, CW is the codeword stream of the bit buffer for the version
and the level in force, so a stale stream is never laid out. Every step keeps this, host writes included. -/
def Obligations.ValidStreamIsTheStreamOfTheBitBuffer : Prop :=
  ∀ s t : State, s.streamValid → step s = .next t → t.streamValid

/-- Rules R52, R221, R303: SCORE_N and SCORE_F stay within the bounds of a grid of side 177, so neither reads as a
negative register. -/
def Obligations.ScoresStayBounded : Prop :=
  scoreBoundN Config.gridMax < 2 ^ 22 ∧
  ∀ s t : State, s.gridMatchesPhase → s.scoresBounded → step s = .next t → t.scoresBounded

/-! ## Rules about the whole machine -/

/-- Rule R250: the orchestrator's transitions are those of its table, and no others; a command of the three steps
issued in a phase its row does not allow raises `SequenceError`. -/
def Obligations.PhaseMovesOnlyAsListed : Prop :=
  (∀ (i : Instr) (s t : State), s.fault = false → exec i s = .next t →
    (t.fault = true → t.phase = .empty ∧ t.modCnt = 0) ∧
    (t.fault = false → match i with
      | .gridInit => t.phase = .empty ∧ t.modCnt = sideOf s.version.toNat ∧ t.grid = Grid.blank t.modCnt
      | .gridStruct _ _ => s.phase = .empty ∧ s.modCnt = sideOf s.version.toNat ∧
          t.phase = .structuralPatternsPlaced ∧ t.modCnt = s.modCnt
      | .gridMap mask => s.phase = .structuralPatternsPlaced ∧ s.modCnt = sideOf s.version.toNat ∧
          mask.toNat = s.mask.val ∧ s.dcValid = true ∧ t.phase = .dataMapped ∧ t.modCnt = s.modCnt
      | .gridFin => s.phase = .dataMapped ∧ s.testF = false ∧ t.phase = .finalized ∧ t.grid = s.grid ∧
          t.modCnt = s.modCnt
      | .makeimpl _ _ => t.phase = .dataMapped ∧ t.modCnt = sideOf s.version.toNat
      | .make => t.phase = .finalized ∧ t.modCnt = sideOf t.version.toNat
      | .reset => t.phase = .empty ∧ t.modCnt = 0
      | _ => t.phase = s.phase ∧ t.modCnt = s.modCnt ∧ t.grid = s.grid)) ∧
  (∀ (s : State) (test : Bool) (mask : BitVec 4), s.fault = false → mask.toNat < 8 →
    (s.phase ≠ .empty → exec (.gridStruct test mask) s =
      .next (faulted (encode (.gridStruct test mask)) .sequenceError (phaseOrder.idxOf s.phase) s)) ∧
    (s.phase ≠ .structuralPatternsPlaced → exec (.gridMap mask) s =
      .next (faulted (encode (.gridMap mask)) .sequenceError (phaseOrder.idxOf s.phase) s)) ∧
    (s.phase ≠ .dataMapped → exec .gridFin s =
      .next (faulted (encode .gridFin) .sequenceError (phaseOrder.idxOf s.phase) s))) ∧
  ∀ s : State, s.hardwareReset.phase = .empty ∧ s.hardwareReset.modCnt = 0

/-- Rules R31, R33, R43, R60: whether a command completes, faults or is refused, it changes of the registers and
spaces only what it may: a scalar register other than its destination, a polynomial register other than its
destination, TXT and STG and the host's port never; TXTLEN, STGLEN and LEVEL by `CSRW` alone (and `RESET`); BLK by
`RS.BLOCKS`; SEG, BB, CW, the grid, MASK, the scores and VERSION by the commands the spec names. That STG, TXT
and SEG keep the elements behind their length as well is log entry 13. -/
def Obligations.CommandsWriteOnlyTheirOutputs : Prop :=
  ∀ (i : Instr) (s t : State), exec i s = .next t →
    (∀ r : XReg, i.scalarDest ≠ some r → t.x[r] = s.x[r]) ∧
    (∀ k : PReg, i.polyDest ≠ some k → i ≠ .reset → t.readP k = s.readP k) ∧
    (t.txt = s.txt ∧ t.stg = s.stg ∧ t.port = s.port ∧ t.reply = s.reply) ∧
    (i ≠ .reset → (∀ csr ra, i ≠ .csrw csr ra) →
      t.txtLen = s.txtLen ∧ t.stgLen = s.stgLen ∧ t.level = s.level ∧ (i ≠ .make → t.version = s.version) ∧
      (i.writesSeg = false → t.segLen = s.segLen)) ∧
    (i.writesSeg = false → t.seg = s.seg) ∧
    (i ≠ .reset →
      (i ≠ .rsBlocks → t.blk = s.blk) ∧ (i.writesBb = false → t.bb = s.bb) ∧ (i.writesCw = false → t.cw = s.cw) ∧
      (i.writesGrid = false → t.fault = s.fault → t.grid = s.grid ∧ t.modCnt = s.modCnt) ∧
      (i.isMakeimpl = false → (∀ test mask, i ≠ .gridStruct test mask) → i ≠ .make → t.mask = s.mask) ∧
      (i ≠ .score → i ≠ .make → t.scoreN = s.scoreN ∧ t.scoreF = s.scoreF))

/-- Rule R55: the writers of DCVALID among the commands. It becomes 1 by `RS.ENC`, `MAKEIMPL` and `MAKE`; it becomes
0 by a fault, `RESET`, `SEG.ENC`, the commands that write BB, and `CSRW` of VERSION, LEVEL and SEGLEN; every other
command leaves it. -/
def Obligations.StreamFlagHasItsListedWriters : Prop :=
  ∀ (i : Instr) (s t : State), s.fault = false → exec i s = .next t →
    (t.fault = true → t.dcValid = false) ∧
    (t.fault = false → match i with
      | .rsEnc | .makeimpl _ _ | .make => t.dcValid = true
      | .reset | .segEnc | .bbClr | .bbPut _ _ | .bbPutbit _ | .segWrite | .dataSeg | .dataFin => t.dcValid = false
      | .csrw csr _ => t.dcValid = (s.dcValid && csr != 4 && csr != 5 && csr != 13)
      | _ => t.dcValid = s.dcValid)

/-! ## The host's accesses -/

/-- Rules R61, R62, R69: what a host access does. A read changes nothing and, outside the contract, answers nothing; a
write inside the contract stores one element or one register; one to SEG, VERSION, LEVEL or SEGLEN clears DCVALID and
no other does; a write outside the contract changes nothing and answers nothing. They take effect in the faulted state
as well. The model's own are the port and the answer (log entry 4), the epoch that every write begins (log entry 6), and
that an access outside the contract is a step (log entry 10). -/
def Obligations.HostAccessesHaveTheirListedEffects : Prop :=
  ∀ (s : State) (rest : List HostTxn),
    let u : State := { s with port := rest, reply := .none, freeIdx := s.freeIdx + 1 }
    (∀ sp index, s.port = .read sp index :: rest → ∃ r, step s = .next { s with port := rest, reply := r } ∧
      (readCapacity sp ≤ index → r = .none)) ∧
    (∀ index v, s.port = .writeX index v :: rest → step s = .next (
      if h : index < 16 then { u with x := s.x.set index v } else u)) ∧
    (∀ index v, s.port = .writeStg index v :: rest → step s = .next (
      if index < 256 then { u with stg := s.stg.write index v } else u)) ∧
    (∀ index v, s.port = .writeTxt index v :: rest → step s = .next (
      if index < 4096 then { u with txt := s.txt.write index v } else u)) ∧
    (∀ index v, s.port = .writeSeg index v :: rest → step s = .next (
      if index < 12291 then { u with seg := s.seg.write index v, dcValid := false } else u)) ∧
    (∀ index (v : Word), s.port = .writeCsr index v :: rest → step s = .next (
      if index = 4 then { u with version := BitVec.ofNat 8 v.toNat, dcValid := false }
      else if index = 5 then { u with level := BitVec.ofNat 2 v.toNat, dcValid := false }
      else if index = 12 ∧ v.toNat ≤ 4096 then { u with txtLen := v.toNat }
      else if index = 13 ∧ v.toNat ≤ 12291 then { u with segLen := v.toNat, dcValid := false }
      else if index = 15 ∧ v.toNat ≤ 256 then { u with stgLen := v.toNat }
      else u)) ∧
    (∀ sp index v, s.port = .writeReadOnly sp index v :: rest → step s = .next u)

/-- Rules R60, R61, R69, R71, R359(b) and (e): a host write to STG, TXT or SEG stores what a read of that element of the
memory finds, and every other element reads as before. A host read answers the element of its space where the index is
part of the space's value (below the length register for STG, TXT and SEG), an unspecified element behind it, and
nothing outside the capacity or for a space that takes no read. That an answer is an element zero-extended to 32 bits,
or the pair of a block, and that a read outside the contract is a step, is the model's form (log entries 4, 10, 14);
that STG, TXT and SEG keep the elements behind the length is log entry 13. -/
def Obligations.HostReadsFindWhatWasWritten : Prop :=
  (∀ s : State, s.memoriesCanonical → ∀ j k : Nat,
    (∀ v, (s.stg.write j v).read k = if k = j then v else s.stg.read k) ∧
    (∀ v, (s.txt.write j v).read k = if k = j then v else s.txt.read k) ∧
    (∀ v, (s.seg.write j v).read k = if k = j then v else s.seg.read k)) ∧
  ∀ (s : State) (rest : List HostTxn) (sp : Space) (k : Nat), s.port = .read sp k :: rest →
    ∃ r, step s = .next { s with port := rest, reply := r } ∧ (readCapacity sp ≤ k → r = .none) ∧
      (k < readCapacity sp → match sp with
        | .x => ∀ h : k < 16, r = .element s.x[k]
        | .csr => r = .element ((csrValues s).getD k 0)
        | .p i => ∃ b : Byte, r = .element (BitVec.ofNat 32 b.toNat) ∧ ∀ a, (s.readP i)[k]? = some a → b = a
        | .stg => ∃ b : Byte, r = .element (BitVec.ofNat 32 b.toNat) ∧ (k < s.stgLen → b = s.stg.read k)
        | .txt => ∃ c : CodeUnit, r = .element (BitVec.ofNat 32 c.toNat) ∧ (k < s.txtLen → c = s.txt.read k)
        | .seg => ∃ b : Byte, r = .element (BitVec.ofNat 32 b.toNat) ∧ (k < s.segLen → b = s.seg.read k)
        | .bb => ∃ b : Byte, r = .element (BitVec.ofNat 32 b.toNat) ∧ ∀ a, s.bb.bytes[k]? = some a → b = a
        | .blk => ∃ b : RsBlock, r = .block b ∧ ∀ a, s.blk[k]? = some a → b = a
        | .cw => ∃ b : Byte, r = .element (BitVec.ofNat 32 b.toNat) ∧ ∀ a, s.cw[k]? = some a → b = a
        | .grid | .rom => r = .none)

/-! ## System commands -/

/-- Rules R300, R301: `NOP` does nothing; `SET` loads the sign-extended constant. Neither faults. -/
def Obligations.NopAndSetDoAsNamed : Prop :=
  encode .nop = 0x00000000 ∧
  (∀ s : State, exec .nop s = .next s) ∧
  ∀ (ra : XReg) (imm16 : BitVec 16),
    encode (.set ra imm16) = commandWordI 0x01 ra imm16.toNat ∧
    ∀ s : State, s.fault = false → exec (.set ra imm16) s = .next { s with x := s.x.set ra (imm16.signExtend 32) }

/-- Rule R303: `CSRR` reads each of the 17 control registers and raises `IllegalCommand` for a reserved number. -/
def Obligations.CsrrReadsTheNumberedRegister : Prop :=
  ∀ (ra : XReg) (csr : BitVec 16),
    encode (.csrr ra csr) = commandWordI 0x03 ra csr.toNat ∧
    ∀ s : State, s.fault = false →
      (csr.toNat ≤ 16 → exec (.csrr ra csr) s = .next { s with x := s.x.set ra ((csrValues s).getD csr.toNat 0) }) ∧
      (16 < csr.toNat → exec (.csrr ra csr) s =
        .next (faulted (encode (.csrr ra csr)) .illegalCommand (encode (.csrr ra csr)).toNat s))

/-- Rule R304: `CSRW` stores the low 8 bits in VERSION, the low 2 bits in LEVEL, a length within its buffer in
TXTLEN, SEGLEN and STGLEN, clearing DCVALID for VERSION, LEVEL and SEGLEN; a length outside raises `OperandRange`,
any other number `IllegalCommand`. -/
def Obligations.CsrwWritesTheFiveWritableRegisters : Prop :=
  ∀ (csr : BitVec 16) (ra : XReg),
    encode (.csrw csr ra) = commandWordI 0x04 ra csr.toNat ∧
    ∀ s : State, s.fault = false →
      let v := s.x[ra].toInt
      let w := encode (.csrw csr ra)
      (csr = 4 → exec (.csrw csr ra) s =
        .next { s with version := BitVec.ofNat 8 s.x[ra].toNat, dcValid := false }) ∧
      (csr = 5 → exec (.csrw csr ra) s =
        .next { s with level := BitVec.ofNat 2 s.x[ra].toNat, dcValid := false }) ∧
      (csr = 12 → 0 ≤ v → v ≤ 4096 → exec (.csrw csr ra) s = .next { s with txtLen := v.toNat }) ∧
      (csr = 13 → 0 ≤ v → v ≤ 12291 → exec (.csrw csr ra) s = .next { s with segLen := v.toNat, dcValid := false }) ∧
      (csr = 15 → 0 ≤ v → v ≤ 256 → exec (.csrw csr ra) s = .next { s with stgLen := v.toNat }) ∧
      ((csr = 12 ∧ (v < 0 ∨ 4096 < v)) ∨ (csr = 13 ∧ (v < 0 ∨ 12291 < v)) ∨ (csr = 15 ∧ (v < 0 ∨ 256 < v)) →
        exec (.csrw csr ra) s = .next (faulted w .operandRange v s)) ∧
      (csr ≠ 4 → csr ≠ 5 → csr ≠ 12 → csr ≠ 13 → csr ≠ 15 →
        exec (.csrw csr ra) s = .next (faulted w .illegalCommand w.toNat s))

/-! ## The field -/

/-- Rule R102: `GF.LOG` gives the exponent, below 255, whose power of 2 is the operand; an operand below 1 raises
`LogZero`, one above 255 `OperandRange`. -/
def Obligations.GfLogFindsTheExponent : Prop :=
  ∀ rd ra : XReg,
    encode (.gfLog rd ra) = commandWord 0x10 ra 0 0 rd 0 ∧
    ∀ s : State, s.fault = false →
      let n := s.x[ra].toInt
      (n < 1 → exec (.gfLog rd ra) s = .next (faulted (encode (.gfLog rd ra)) .logZero n s)) ∧
      (255 < n → exec (.gfLog rd ra) s = .next (faulted (encode (.gfLog rd ra)) .operandRange n s)) ∧
      (1 ≤ n → n ≤ 255 → ∃ k < 255, (pow2 k).toNat = n ∧
        exec (.gfLog rd ra) s = .next { s with x := s.x.set rd (BitVec.ofNat 32 k) })

/-- Rule R103: `GF.EXP` gives `2^(n mod 255)` in GF(256), for every register value. -/
def Obligations.GfExpIsThePowerOfTwo : Prop :=
  ∀ rd ra : XReg,
    encode (.gfExp rd ra) = commandWord 0x11 ra 0 0 rd 0 ∧
    ∀ s : State, s.fault = false →
      let v := (pow2 (s.x[ra].toInt % 255).toNat).toNat
      1 ≤ v ∧ v ≤ 255 ∧ exec (.gfExp rd ra) s = .next { s with x := s.x.set rd (BitVec.ofNat 32 v) }

/-! ## Polynomials -/

/-- Rules R120, R121: `POLY.NEW` strips the leading zeros of the staged coefficients, appends `shift` zeros, and
raises `BufferLimit` when the result is longer than POLY_MAX. -/
def Obligations.PolyNewStripsAndShifts : Prop :=
  ∀ (pd : PReg) (shift : BitVec 8),
    encode (.polyNew pd shift) = commandWord 0x20 0 0 0 pd shift.toNat ∧
    ∀ s : State, s.fault = false →
      let raw := (List.range s.stgLen).map s.stg.read
      ∃ off ≤ raw.length, (∀ a ∈ raw.take off, a = 0) ∧ (raw.drop off).head? ≠ some 0 ∧
        let c := raw.drop off ++ List.replicate shift.toNat 0
        (c.length ≤ 256 → exec (.polyNew pd shift) s = .next { s with p := s.p.set pd c }) ∧
        (256 < c.length → exec (.polyNew pd shift) s =
          .next (faulted (encode (.polyNew pd shift)) .bufferLimit c.length s))

/-- Rules R122, R123, R128(a): `POLY.MUL` of operands without a zero coefficient is the product over GF(256), of
length `len(a) + len(b) - 1`; an empty operand, a zero coefficient and a product longer than POLY_MAX raise the
faults of the rule, in its order. -/
def Obligations.PolyMulIsTheProduct : Prop :=
  ∀ pd pa pb : PReg,
    encode (.polyMul pd pa pb) = commandWord 0x21 pa pb 0 pd 0 ∧
    ∀ s : State, s.fault = false →
      let a := s.readP pa
      let b := s.readP pb
      let w := encode (.polyMul pd pa pb)
      (a = [] ∨ b = [] → exec (.polyMul pd pa pb) s = .next (faulted w .operandRange 0 s)) ∧
      (a ≠ [] → b ≠ [] → 0 ∈ a ∨ 0 ∈ b → exec (.polyMul pd pa pb) s = .next (faulted w .logZero 0 s)) ∧
      (a ≠ [] → b ≠ [] → 0 ∉ a → 0 ∉ b →
        (a.length + b.length - 1 ≤ 256 →
          exec (.polyMul pd pa pb) s = .next { s with p := s.p.set pd (Reference.polyMul a b) }) ∧
        (256 < a.length + b.length - 1 →
          exec (.polyMul pd pa pb) s = .next (faulted w .bufferLimit (a.length + b.length - 1 : Nat) s)))

/-- Rules R124, R125, R128(b): `POLY.MOD` gives the remainder of the division over GF(256), without leading zeros: a
dividend shorter than the divisor is copied; else, when the dividend's leader and every coefficient of the divisor
are non-zero, the dividend is a multiple of the divisor plus the result. An empty divisor and a zero where a
logarithm is taken raise the faults of the rule. -/
def Obligations.PolyModIsTheRemainder : Prop :=
  ∀ pd pa pb : PReg,
    encode (.polyMod pd pa pb) = commandWord 0x22 pa pb 0 pd 0 ∧
    ∀ s : State, s.fault = false →
      let a := s.readP pa
      let e := s.readP pb
      let w := encode (.polyMod pd pa pb)
      (e = [] → exec (.polyMod pd pa pb) s = .next (faulted w .operandRange 0 s)) ∧
      (a.length < e.length → exec (.polyMod pd pa pb) s = .next { s with p := s.p.set pd a }) ∧
      (e ≠ [] → e.length ≤ a.length → a.head? = some 0 ∨ 0 ∈ e →
        exec (.polyMod pd pa pb) s = .next (faulted w .logZero 0 s)) ∧
      (e ≠ [] → e.length ≤ a.length → a.head? ≠ some 0 → 0 ∉ e → ∃ r q : Poly,
        exec (.polyMod pd pa pb) s = .next { s with p := s.p.set pd r } ∧ r.length < e.length ∧ r.head? ≠ some 0 ∧
        q.length = a.length - e.length + 1 ∧
        polyAdd (Reference.polyMul q e) (padLeft a.length r) = a)

/-- Rules R126, R127, R149: the commands that read one value of a polynomial register or of the bit buffer, and
their index faults. -/
def Obligations.PolyAndBitReadsAnswerTheIndexedValue : Prop :=
  (∀ (rd : XReg) (pa : PReg), encode (.polyLen rd pa) = commandWord 0x23 pa 0 0 rd 0 ∧
    ∀ s : State, s.fault = false →
      exec (.polyLen rd pa) s = .next { s with x := s.x.set rd (BitVec.ofNat 32 (s.readP pa).length) }) ∧
  (∀ (rd : XReg) (pa : PReg) (rb : XReg), encode (.polyGet rd pa rb) = commandWord 0x24 pa rb 0 rd 0 ∧
    ∀ s : State, s.fault = false →
      let k := s.x[rb].toInt
      (∀ c, 0 ≤ k → (s.readP pa)[k.toNat]? = some c →
        exec (.polyGet rd pa rb) s = .next { s with x := s.x.set rd (BitVec.ofNat 32 c.toNat) }) ∧
      (k < 0 ∨ ((s.readP pa).length : Int) ≤ k → exec (.polyGet rd pa rb) s =
        .next (faulted (encode (.polyGet rd pa rb)) .operandRange k s))) ∧
  ∀ rd ra : XReg, encode (.bbGet rd ra) = commandWord 0x33 ra 0 0 rd 0 ∧
    ∀ s : State, s.fault = false →
      let k := s.x[ra].toInt
      (∀ bit, 0 ≤ k → (bits s.bb)[k.toNat]? = some bit →
        exec (.bbGet rd ra) s = .next { s with x := s.x.set rd (if bit then 1 else 0) }) ∧
      (k < 0 ∨ (s.bb.len : Int) ≤ k →
        exec (.bbGet rd ra) s = .next (faulted (encode (.bbGet rd ra)) .operandRange k s))

/-! ## Bit buffer, segment, data codewords -/

/-- Rules R146, R153, R286: `BB.CLR` empties the bit buffer and clears DCVALID; `SEG.LEN` and `Q.COUNT` read SEGLEN
and MODCNT. None faults. -/
def Obligations.ClearAndCountCommandsDoAsNamed : Prop :=
  (encode .bbClr = 0x30000000 ∧ ∀ s : State, s.fault = false →
    exec .bbClr s = .next { s with bb := ⟨[], 0⟩, dcValid := false }) ∧
  ∀ rd : XReg,
    (encode (.segLen rd) = commandWord 0x35 0 0 0 rd 0 ∧ ∀ s : State, s.fault = false →
      exec (.segLen rd) s = .next { s with x := s.x.set rd (BitVec.ofNat 32 s.segLen) }) ∧
    (encode (.qCount rd) = commandWord 0x66 0 0 0 rd 0 ∧ ∀ s : State, s.fault = false →
      exec (.qCount rd) s = .next { s with x := s.x.set rd (BitVec.ofNat 32 s.modCnt) })

/-- Rules R141, R142, R147, R148: `BB.PUT` appends the low `x[rb]` bits of `x[ra]`, most significant first, and
`BB.PUTBIT` one bit; both clear DCVALID; a count outside 0 to 32 and a full buffer raise the faults of the rules
before a bit is written. -/
def Obligations.BitsAreAppendedInOrder : Prop :=
  (∀ ra rb : XReg, encode (.bbPut ra rb) = commandWord 0x31 ra rb 0 0 0 ∧
    ∀ s : State, s.fault = false → s.bb.wellFormed →
      let n := s.x[rb].toInt
      let w := encode (.bbPut ra rb)
      (n < 0 ∨ 32 < n → exec (.bbPut ra rb) s = .next (faulted w .operandRange n s)) ∧
      (0 ≤ n → n ≤ 32 → 8 * 12294 < s.bb.len + n →
        exec (.bbPut ra rb) s = .next (faulted w .bufferLimit (s.bb.len + n) s)) ∧
      (0 ≤ n → n ≤ 32 → s.bb.len + n ≤ 8 * 12294 → ∃ b : BitBuffer,
        exec (.bbPut ra rb) s = .next { s with bb := b, dcValid := false } ∧ b.wellFormed ∧
        bits b = bits s.bb ++ msbBits s.x[ra].toNat n.toNat)) ∧
  ∀ ra : XReg, encode (.bbPutbit ra) = commandWord 0x32 ra 0 0 0 0 ∧
    ∀ s : State, s.fault = false → s.bb.wellFormed →
      (8 * 12294 < s.bb.len + 1 → exec (.bbPutbit ra) s =
        .next (faulted (encode (.bbPutbit ra)) .bufferLimit (s.bb.len + 1) s)) ∧
      (s.bb.len + 1 ≤ 8 * 12294 → ∃ b : BitBuffer,
        exec (.bbPutbit ra) s = .next { s with bb := b, dcValid := false } ∧ b.wellFormed ∧
        bits b = bits s.bb ++ [s.x[ra] != 0])

/-- Rules R150 to R152: `SEG.ENC` stores the segment of the text in SEG from element 0 on, sets SEGLEN to its length
and clears DCVALID; all else is unchanged. That the elements of SEG behind the segment keep what they held, where
rule R359(b) lets a model rely on nothing, is the model's reading (log entry 13). -/
def Obligations.SegEncStoresTheEncodedText : Prop :=
  encode .segEnc = 0x34000000 ∧
  ∀ s : State, s.fault = false → s.buffersBounded → s.memoriesCanonical →
    let bytes := segmentOf ((List.range s.txtLen).map s.txt.read)
    ∃ m : Memory 8, exec .segEnc s = .next { s with seg := m, segLen := bytes.length, dcValid := false } ∧
      m.wf = true ∧ ∀ k, m.read k = match bytes[k]? with
        | some b => BitVec.ofNat 8 b
        | none => s.seg.read k

/-- Rule R155: `UTF8.LEN` gives the length of the segment `SEG.ENC` makes of the text, for every text, and changes
neither SEG nor SEGLEN. -/
def Obligations.Utf8LenIsTheSegmentLength : Prop :=
  ∀ rd : XReg, encode (.utf8Len rd) = commandWord 0x37 0 0 0 rd 0 ∧
    ∀ s : State, s.fault = false → exec (.utf8Len rd) s = .next { s with
      x := s.x.set rd (BitVec.ofNat 32 (segmentOf ((List.range s.txtLen).map s.txt.read)).length) }

/-- Rule R154: `SEG.WRITE` appends the bytes of the segment, 8 bits each, and clears DCVALID; it raises
`BufferLimit` before anything is written when they do not fit. -/
def Obligations.SegWriteAppendsTheSegment : Prop :=
  encode .segWrite = 0x36000000 ∧
  ∀ s : State, s.fault = false → s.bb.wellFormed →
    (8 * 12294 < s.bb.len + 8 * s.segLen → exec .segWrite s =
      .next (faulted 0x36000000 .bufferLimit (s.bb.len + 8 * s.segLen : Nat) s)) ∧
    (s.bb.len + 8 * s.segLen ≤ 8 * 12294 → ∃ b : BitBuffer,
      exec .segWrite s = .next { s with bb := b, dcValid := false } ∧ b.wellFormed ∧
      bits b = bits s.bb ++ byteBits ((List.range s.segLen).map s.seg.read))

/-- Rules R156 to R158: `DATA.SEG` appends the mode 0100, the length in 8 or 16 bits and the bytes of the segment, and
clears DCVALID; a version outside 1 to 40 raises `TableEntryMissing` (the buffer it would write is then free), a
segment that does not fit `BufferLimit` (nothing written: log entry 5). -/
def Obligations.DataSegAppendsHeaderAndPayload : Prop :=
  encode .dataSeg = 0x38000000 ∧
  ∀ s : State, s.fault = false → s.bb.wellFormed →
    (¬ versionLegal s → ∃ (b : BitBuffer) (n : Nat), exec .dataSeg s =
      .next (faulted 0x38000000 .tableEntryMissing (missingIndex s) { s with bb := b, freeIdx := n })) ∧
    (versionLegal s → 8 * 12294 < s.bb.len + segmentBits s → exec .dataSeg s =
      .next (faulted 0x38000000 .bufferLimit (s.bb.len + segmentBits s : Nat) s)) ∧
    (versionLegal s → s.bb.len + segmentBits s ≤ 8 * 12294 → ∃ b : BitBuffer,
      exec .dataSeg s = .next { s with bb := b, dcValid := false } ∧ b.wellFormed ∧
      bits b = bits s.bb ++ [false, true, false, false] ++ msbBits s.segLen (lengthFieldWidth s.version.toNat) ++
        byteBits ((List.range s.segLen).map s.seg.read))

/-- Rules R159, R160: `DATA.FIN` appends a terminator of 4 zero bits when there is room, zero bits to a byte boundary
and then the bytes EC and 11 alternately, up to exactly the data codewords of the version and the level, and clears
DCVALID; a version outside 1 to 40 raises `TableEntryMissing`, a longer stream `DataOverflow`. -/
def Obligations.DataFinPadsToTheDataCapacity : Prop :=
  encode .dataFin = 0x39000000 ∧
  ∀ s : State, s.fault = false → s.bb.wellFormed →
    (¬ versionLegal s → ∃ (b : BitBuffer) (n : Nat), exec .dataFin s =
      .next (faulted 0x39000000 .tableEntryMissing (missingIndex s) { s with bb := b, freeIdx := n })) ∧
    (versionLegal s → 8 * dataWords s < s.bb.len → ∃ (b : BitBuffer) (n : Nat), exec .dataFin s =
      .next (faulted 0x39000000 .dataOverflow s.bb.len { s with bb := b, freeIdx := n })) ∧
    (versionLegal s → s.bb.len ≤ 8 * dataWords s → ∃ b : BitBuffer,
      exec .dataFin s = .next { s with bb := b, dcValid := false } ∧ b.wellFormed ∧ b.len = 8 * dataWords s ∧
      let ended := if s.bb.len + 4 ≤ 8 * dataWords s then s.bb.len + 4 else s.bb.len
      let full := (ended + 7) / 8
      bits b = bits s.bb ++ List.replicate (8 * full - s.bb.len) false ++
        byteBits ((List.range (dataWords s - full)).map fun k => if k % 2 = 0 then 0xEC else 0x11))

/-- Rule R162: `VER.SEL` gives the smallest version whose capacity at the level in force holds the length; a negative
length raises `OperandRange`, one above the capacity of version 40 `TooLongData`. -/
def Obligations.VerSelGivesTheSmallestVersion : Prop :=
  ∀ rd ra : XReg,
    encode (.verSel rd ra) = commandWord 0x3A ra 0 0 rd 0 ∧
    ∀ s : State, s.fault = false →
      let n := s.x[ra].toInt
      let w := encode (.verSel rd ra)
      (n < 0 → exec (.verSel rd ra) s = .next (faulted w .operandRange n s)) ∧
      (0 ≤ n → n ≤ capacity 40 s.level.toNat → ∃ v, smallestVersion s.level.toNat n v ∧
        exec (.verSel rd ra) s = .next { s with x := s.x.set rd (BitVec.ofNat 32 v) }) ∧
      ((capacity 40 s.level.toNat : Int) < n → exec (.verSel rd ra) s = .next (faulted w .tooLongData n s))

/-- Rules R161, R163: the capacity of every version and level is what fits its data codewords beside the header, so a
version that `VER.SEL` gives never overflows; and a stricter level needs an equal or larger version. The tables are
general knowledge of the spec (log entry 7). -/
def Obligations.CapacityAgreesWithTheBlockTable : Prop :=
  (∀ v ∈ List.range' 1 40, ∀ l < 4, capacity v l = (8 * dataTotal v l - 4 - lengthFieldWidth v) / 8) ∧
  ∀ (n : Int) (l u v : Nat), l < 3 → smallestVersion l n u → smallestVersion (l + 1) n v → u ≤ v

/-! ## Reed-Solomon -/

/-- Rules R24, R180, R181, R187(a): `RS.BLOCKS` stores the blocks of the version and the level in BLK: valid blocks,
at most 81, with one number of check bytes, whose codewords add up to the version's total; nothing else changes. A
version outside 1 to 40 raises `TableEntryMissing`. The block table is general knowledge of the spec (log entry 7). -/
def Obligations.RsBlocksListsTheBlocks : Prop :=
  encode .rsBlocks = 0x40000000 ∧
  ∀ s : State, s.fault = false →
    (¬ versionLegal s →
      exec .rsBlocks s = .next (faulted 0x40000000 .tableEntryMissing (missingIndex s) s)) ∧
    (versionLegal s → ∃ blocks : List RsBlock, exec .rsBlocks s = .next { s with blk := blocks } ∧
      blocks = ((rsBlockRows.getD (s.version.toNat - 1) []).getD s.level.toNat []).flatMap (fun g =>
        List.replicate g.blockCount ⟨g.totalCodewords, g.dataCodewords⟩) ∧
      0 < blocks.length ∧ blocks.length ≤ 81 ∧
      (∀ b ∈ blocks, 0 < b.dataCount ∧ b.dataCount < b.totalCount) ∧
      (∀ b ∈ blocks, ∀ c ∈ blocks, b.totalCount - b.dataCount = c.totalCount - c.dataCount) ∧
      some (blocks.map (·.totalCount)).sum = codewordTotals[s.version.toNat - 1]?)

/-- Rules R182, R183: `RS.GEN` gives the monic polynomial of degree `ec` with the roots `2^0` to `2^(ec-1)`, for
every count, and touches no other polynomial register. -/
def Obligations.RsGenHasTheRootsOfTheGenerator : Prop :=
  ∀ (pd : PReg) (ec : BitVec 8),
    encode (.rsGen pd ec) = commandWord 0x41 0 0 0 pd ec.toNat ∧
    ∀ s : State, s.fault = false → ∃ g : Poly,
      exec (.rsGen pd ec) s = .next { s with p := s.p.set pd g } ∧
      g.length = ec.toNat + 1 ∧ g.head? = some 1 ∧ isCodeword g ec.toNat

/-- Rules R184 to R187: `RS.ENC` of a bit buffer of exactly the data codewords: CW is the data bytes of the blocks
column by column and then their check bytes column by column, where each block's data and check bytes together are
a Reed-Solomon codeword; DCVALID is set. A version outside 1 to 40 raises `TableEntryMissing`, another bit length
`SequenceError`. -/
def Obligations.RsEncAppendsTheCheckBytes : Prop :=
  encode .rsEnc = 0x42000000 ∧
  ∀ s : State, s.fault = false → s.bb.wellFormed →
    (¬ versionLegal s → ∃ (cw : List Byte) (n : Nat), exec .rsEnc s =
      .next (faulted 0x42000000 .tableEntryMissing (missingIndex s) { s with cw := cw, freeIdx := n })) ∧
    (versionLegal s → s.bb.len ≠ 8 * dataWords s → ∃ (cw : List Byte) (n : Nat), exec .rsEnc s =
      .next (faulted 0x42000000 .sequenceError s.bb.len { s with cw := cw, freeIdx := n })) ∧
    (versionLegal s → s.bb.len = 8 * dataWords s →
      let blocks := blocksOf s.version.toNat s.level.toNat
      ∃ data checks : List (List Byte),
        data.flatten = s.bb.bytes ∧
        data.map List.length = blocks.map (·.dataCount) ∧
        checks.map List.length = blocks.map (fun b => b.totalCount - b.dataCount) ∧
        (∀ d e, (d, e) ∈ data.zip checks → isCodeword (d ++ e) e.length) ∧
        let cw := columnMajor 256 data ++ columnMajor 256 checks
        some cw.length = codewordTotals[s.version.toNat - 1]? ∧
        exec .rsEnc s = .next { s with cw := cw, dcValid := true })

/-! ## SymbolMath -/

/-- Rules R210 to R214: `BCH.FMT` and `BCH.VER` give the words of the spec's tables, `BCH.DIGIT` the number of bits of
its operand; an operand outside 0 to 31, outside 0 to 63, or negative raises `OperandRange`. -/
def Obligations.BchCommandsGiveThePrintedWords : Prop :=
  ∀ rd ra : XReg,
    (encode (.bchFmt rd ra) = commandWord 0x50 ra 0 0 rd 0 ∧ encode (.bchVer rd ra) = commandWord 0x51 ra 0 0 rd 0 ∧
      encode (.bchDigit rd ra) = commandWord 0x52 ra 0 0 rd 0) ∧
    ∀ s : State, s.fault = false →
      let n := s.x[ra].toInt
      (0 ≤ n → n ≤ 31 → ∃ word, formatWords[n.toNat]? = some word ∧
        exec (.bchFmt rd ra) s = .next { s with x := s.x.set rd (BitVec.ofNat 32 word) }) ∧
      (n < 0 ∨ 31 < n →
        exec (.bchFmt rd ra) s = .next (faulted (encode (.bchFmt rd ra)) .operandRange n s)) ∧
      (0 ≤ n → n ≤ 63 → ∃ word, versionWords[n.toNat]? = some word ∧
        exec (.bchVer rd ra) s = .next { s with x := s.x.set rd (BitVec.ofNat 32 word) }) ∧
      (n < 0 ∨ 63 < n →
        exec (.bchVer rd ra) s = .next (faulted (encode (.bchVer rd ra)) .operandRange n s)) ∧
      (0 ≤ n → ∃ d ≤ 31, n < 2 ^ d ∧ (d = 0 ∨ 2 ^ (d - 1) ≤ n) ∧
        exec (.bchDigit rd ra) s = .next { s with x := s.x.set rd (BitVec.ofNat 32 d) }) ∧
      (n < 0 → exec (.bchDigit rd ra) s = .next (faulted (encode (.bchDigit rd ra)) .operandRange n s))

/-- Rules R215, R216: `MASK.TST` gives the eight mask predicates, row `i` and column `j`; a pattern outside 0 to 7
raises `MaskPattern` first, then a row or a column outside 0 to 176 `OperandRange`, in that order. -/
def Obligations.MaskTstGivesTheEightPredicates : Prop :=
  ∀ rd ra rb rc : XReg,
    encode (.maskTst rd ra rb rc) = commandWord 0x53 ra rb rc rd 0 ∧
    ∀ s : State, s.fault = false →
      let pattern := s.x[ra].toInt
      let i := s.x[rb].toInt
      let j := s.x[rc].toInt
      let w := encode (.maskTst rd ra rb rc)
      (pattern < 0 ∨ 7 < pattern → exec (.maskTst rd ra rb rc) s = .next (faulted w .maskPattern pattern s)) ∧
      (0 ≤ pattern → pattern ≤ 7 →
        (i < 0 ∨ 176 < i → exec (.maskTst rd ra rb rc) s = .next (faulted w .operandRange i s)) ∧
        (0 ≤ i → i ≤ 176 → j < 0 ∨ 176 < j →
          exec (.maskTst rd ra rb rc) s = .next (faulted w .operandRange j s)) ∧
        (0 ≤ i → i ≤ 176 → 0 ≤ j → j ≤ 176 →
          let holds : Prop :=
            (pattern = 0 ∧ (i + j) % 2 = 0) ∨ (pattern = 1 ∧ i % 2 = 0) ∨ (pattern = 2 ∧ j % 3 = 0) ∨
            (pattern = 3 ∧ (i + j) % 3 = 0) ∨ (pattern = 4 ∧ (i / 2 + j / 3) % 2 = 0) ∨
            (pattern = 5 ∧ i * j % 2 + i * j % 3 = 0) ∨ (pattern = 6 ∧ (i * j % 2 + i * j % 3) % 2 = 0) ∨
            (pattern = 7 ∧ (i * j % 3 + (i + j) % 2) % 2 = 0)
          (holds → exec (.maskTst rd ra rb rc) s = .next { s with x := s.x.set rd 1 }) ∧
          (¬ holds → exec (.maskTst rd ra rb rc) s = .next { s with x := s.x.set rd 0 })))

/-- Rules R217 to R222: `SCORE` puts the four penalties of the resolved grid in SCORE_N and SCORE_F and changes
nothing else; before the grid is resolved it raises `SequenceError`. -/
def Obligations.ScoreCountsTheFourPenalties : Prop :=
  encode .score = 0x54000000 ∧
  ∀ s : State, s.fault = false → s.gridMatchesPhase →
    (s.phase = .dataMapped ∨ s.phase = .finalized → exec .score s = .next { s with
      scoreN := BitVec.ofNat 32 (penaltyA s.grid s.modCnt + penaltyB s.grid s.modCnt + penaltyC s.grid s.modCnt)
      scoreF := BitVec.ofNat 32 (penaltyD s.grid s.modCnt) }) ∧
    (s.phase = .empty ∨ s.phase = .structuralPatternsPlaced → exec .score s =
      .next (faulted 0x54000000 .sequenceError (phaseOrder.idxOf s.phase) s))

/-! ## The layout engine -/

/-- Rule R251: `GRID.INIT` allocates a grid of side `version * 4 + 17`, all cells `Unset`, and clears FINAL and TESTF;
a version outside 1 to 40 raises `TableEntryMissing`. -/
def Obligations.GridInitAllocatesABlankGrid : Prop :=
  encode .gridInit = 0x60000000 ∧
  ∀ s : State, s.fault = false →
    (¬ versionLegal s →
      exec .gridInit s = .next (faulted 0x60000000 .tableEntryMissing (missingIndex s) s)) ∧
    (versionLegal s →
      let mc := s.version.toNat * 4 + 17
      exec .gridInit s = .next { s with
        modCnt := mc, grid := List.replicate mc (List.replicate mc .unset), phase := .empty, final := false
        testF := false })

/-- Rule R268: when `GRID.STRUCT` completes, what it leaves of the registers, and when it raises which fault: the mask
pattern is checked first, then phase, grid and version. The grid's cells are the next statement's. -/
def Obligations.GridStructCompletesOrFaults : Prop :=
  ∀ (test : Bool) (mask : BitVec 4),
    encode (.gridStruct test mask) = commandWord 0x61 0 0 0 0 ((if test then 128 else 0) + mask.toNat) ∧
    ∀ s : State, s.fault = false →
      let w := encode (.gridStruct test mask)
      (8 ≤ mask.toNat → exec (.gridStruct test mask) s = .next (faulted w .maskPattern mask.toNat s)) ∧
      (mask.toNat < 8 → s.phase ≠ .empty ∨ s.modCnt = 0 ∨ s.modCnt ≠ s.version.toNat * 4 + 17 →
        exec (.gridStruct test mask) s =
          .next (faulted w .sequenceError (phaseOrder.idxOf s.phase) s)) ∧
      (∀ m : Fin 8, mask.toNat = m.val → s.phase = .empty → s.modCnt ≠ 0 → s.modCnt = s.version.toNat * 4 + 17 →
        ∃ g : Grid, exec (.gridStruct test mask) s = .next { s with
          grid := g, mask := m, testF := test, phase := .structuralPatternsPlaced })

/-- Rules R42, R252 to R266: the cells of the grid after `GRID.STRUCT`: the finder patterns with their separators, the
alignment patterns, the timing patterns, the two format strips, the dark module and, from version 7 on, the two
version blocks; with `test` the format cells, the dark module and the version blocks are light; every other cell is
still `Unset`. Coordinates, ring colours and parity are general knowledge of the spec (log entry 7), the blanking
of the version blocks a parameter at its default (log entry 8). -/
def Obligations.GridStructPlacesTheStructuralPatterns : Prop :=
  ∀ (test : Bool) (mask : BitVec 4) (s t : State), s.fault = false → s.gridMatchesPhase →
    exec (.gridStruct test mask) s = .next t → t.fault = false →
    let mc := s.modCnt
    let v := s.version.toNat
    (∀ p ∈ finderCentres mc, ∀ r < mc, ∀ c < mc, ring r c p.1 p.2 ≤ 4 →
      t.grid.cell r c = GridCell.ofBool (finderColour (ring r c p.1 p.2))) ∧
    (∀ p ∈ alignmentCentres v, ∀ r < mc, ∀ c < mc, ring r c p.1 p.2 ≤ 2 →
      t.grid.cell r c = GridCell.ofBool (alignmentColour (ring r c p.1 p.2))) ∧
    (∀ k, 8 ≤ k → k + 8 < mc →
      t.grid.cell k 6 = GridCell.ofBool (k % 2 == 0) ∧ t.grid.cell 6 k = GridCell.ofBool (k % 2 == 0)) ∧
    (∀ i < 15, ∀ row col, (formatRows mc)[i]? = some row → (formatColumns mc)[i]? = some col →
      let bit := (formatWords.getD (8 * levelCode s.level.toNat + mask.toNat) 0).testBit i
      t.grid.cell row 8 = GridCell.ofBool (!test && bit) ∧ t.grid.cell 8 col = GridCell.ofBool (!test && bit)) ∧
    t.grid.cell (mc - 8) 8 = GridCell.ofBool (!test) ∧
    (7 ≤ v → ∀ i < 18,
      let bit := (versionWords.getD v 0).testBit i
      t.grid.cell (i / 3) (mc - 11 + i % 3) = GridCell.ofBool (!test && bit) ∧
      t.grid.cell (mc - 11 + i % 3) (i / 3) = GridCell.ofBool (!test && bit)) ∧
    ∀ r < mc, ∀ c < mc, isStructural v r c = false → t.grid.cell r c = .unset

/-- Rules R42, R66, R271, R272, R273: when `GRID.MAP` completes and when it faults; the grid it leaves: a set cell
keeps its value, and an `Unset` cell takes the bit of the codeword stream whose number is the count of `Unset` cells
before it in the scan, `false` after the last bit, inverted where the mask predicate is true; so no cell is left
`Unset`. The start row and the order inside a pair are general knowledge of the spec (log entry 7). -/
def Obligations.GridMapPlacesTheStream : Prop :=
  ∀ mask : BitVec 4, encode (.gridMap mask) = commandWord 0x62 0 0 0 0 mask.toNat ∧
    ∀ s : State, s.fault = false → s.gridMatchesPhase →
      let mc := s.modCnt
      let w := encode (.gridMap mask)
      (8 ≤ mask.toNat → exec (.gridMap mask) s = .next (faulted w .maskPattern mask.toNat s)) ∧
      (mask.toNat < 8 → s.phase ≠ .structuralPatternsPlaced ∨ mc ≠ s.version.toNat * 4 + 17 ∨
          mask.toNat ≠ s.mask.val ∨ s.dcValid = false →
        exec (.gridMap mask) s = .next (faulted w .sequenceError (phaseOrder.idxOf s.phase) s)) ∧
      (s.phase = .structuralPatternsPlaced → mc = s.version.toNat * 4 + 17 → mask.toNat = s.mask.val →
          s.dcValid = true →
        ∃ g : Grid, exec (.gridMap mask) s = .next { s with grid := g, phase := .dataMapped } ∧
          ∀ row < mc, ∀ col < mc, g.cell row col =
            if s.grid.cell row col = .unset then
              GridCell.ofBool (streamBit s.cw (freeCellsBefore s.grid mc row col) ^^ maskPredicate s.mask row col)
            else s.grid.cell row col)

/-- Rules R275, R287: `GRID.FIN` commits a mapped grid that is no trial grid; `Q.DARK` answers the colour of a cell of
a resolved grid, its coordinates checked first, row before column. -/
def Obligations.CommitAndQueryTheGrid : Prop :=
  (encode .gridFin = 0x63000000 ∧ ∀ s : State, s.fault = false →
    (s.phase = .dataMapped → s.testF = false → exec .gridFin s = .next { s with phase := .finalized, final := true }) ∧
    (s.phase ≠ .dataMapped ∨ s.testF = true → exec .gridFin s =
      .next (faulted 0x63000000 .sequenceError (phaseOrder.idxOf s.phase) s))) ∧
  ∀ rd ra rb : XReg, encode (.qDark rd ra rb) = commandWord 0x67 ra rb 0 rd 0 ∧
    ∀ s : State, s.fault = false →
      let row := s.x[ra].toInt
      let col := s.x[rb].toInt
      let w := encode (.qDark rd ra rb)
      (row < 0 ∨ s.modCnt ≤ row → exec (.qDark rd ra rb) s = .next (faulted w .coordinate row s)) ∧
      (0 ≤ row → row < s.modCnt → col < 0 ∨ s.modCnt ≤ col →
        exec (.qDark rd ra rb) s = .next (faulted w .coordinate col s)) ∧
      (0 ≤ row → row < s.modCnt → 0 ≤ col → col < s.modCnt →
        (s.phase = .empty ∨ s.phase = .structuralPatternsPlaced → exec (.qDark rd ra rb) s =
          .next (faulted w .sequenceError (phaseOrder.idxOf s.phase) s)) ∧
        (s.phase = .dataMapped ∨ s.phase = .finalized → exec (.qDark rd ra rb) s = .next { s with
          x := s.x.set rd (if s.grid.cell row.toNat col.toNat = .dark then 1 else 0) }))

/-- Rules R270, R276: when `MAKEIMPL` completes, and the state it leaves: the pattern and the flag of its operands, a
resolved grid of the version's side, a valid stream (computed from SEG when DCVALID was 0, else kept); and its
faults: a pattern above 7, a version outside 1 to 40, a segment that does not fit. -/
def Obligations.MakeimplBuildsAMappedGrid : Prop :=
  ∀ (test : Bool) (mask : BitVec 4),
    encode (.makeimpl test mask) = commandWord 0x64 0 0 0 0 ((if test then 128 else 0) + mask.toNat) ∧
    ∀ s : State, s.fault = false → s.buffersBounded →
      (mask.toNat < 8 → versionLegal s → s.dcValid = true ∨ segmentBits s ≤ 8 * dataWords s →
        ∃ t, exec (.makeimpl test mask) s = .next t ∧
          t = { s with
            grid := t.grid, modCnt := s.version.toNat * 4 + 17, phase := .dataMapped, mask := t.mask, testF := test
            final := false, dcValid := true, bb := t.bb, cw := t.cw } ∧
          t.mask.val = mask.toNat ∧ t.grid.length = t.modCnt ∧
          (∀ row ∈ t.grid, row.length = t.modCnt ∧ ∀ c ∈ row, c ≠ .unset) ∧
          (s.dcValid = true → t.bb = s.bb ∧ t.cw = s.cw) ∧
          (s.dcValid = false → t.bb.len = 8 * dataWords s ∧
            some t.cw.length = codewordTotals[s.version.toNat - 1]?)) ∧
      (8 ≤ mask.toNat → ∃ t, exec (.makeimpl test mask) s = .next t ∧ t.fault = true ∧
        t.cause = some .maskPattern ∧ t.finfo = BitVec.ofNat 32 mask.toNat) ∧
      (mask.toNat < 8 → ¬ versionLegal s → ∃ t, exec (.makeimpl test mask) s = .next t ∧ t.fault = true ∧
        t.cause = some .tableEntryMissing ∧ t.finfo = BitVec.ofInt 32 (missingIndex s)) ∧
      (mask.toNat < 8 → versionLegal s → s.dcValid = false → 8 * dataWords s < segmentBits s →
        ∃ t, exec (.makeimpl test mask) s = .next t ∧ t.fault = true ∧
          t.cause = some .dataOverflow ∧ t.finfo = BitVec.ofNat 32 (segmentBits s))

/-- Rules R270, R276: where the commands of its rule, issued one after another, complete, `MAKEIMPL` leaves exactly the
state they leave: with a valid stream `GRID.INIT`, `GRID.STRUCT`, `GRID.MAP`, else with `BB.CLR`, `DATA.SEG`,
`DATA.FIN`, `RS.ENC` before the last. -/
def Obligations.MakeimplIsItsSequenceOfCommands : Prop :=
  ∀ (test : Bool) (mask : BitVec 4) (s t : State), s.fault = false → t.fault = false →
    (s.dcValid = true → runCommands [.gridInit, .gridStruct test mask, .gridMap mask] s = .next t →
      exec (.makeimpl test mask) s = .next t) ∧
    (s.dcValid = false →
      runCommands [.gridInit, .gridStruct test mask, .bbClr, .dataSeg, .dataFin, .rsEnc, .gridMap mask] s = .next t →
      exec (.makeimpl test mask) s = .next t)

/-- Rules R281, R288: `MAKE` completes for every text that fits: with VERSION 0 it selects the smallest version, else it
takes VERSION as an override; its end state on success; and its faults when no version, no table entry or no room is
there. That the elements of SEG behind the segment keep what they held is the model's reading (log entry 13). -/
def Obligations.MakeBuildsTheSymbol : Prop :=
  encode .make = 0x65000000 ∧
  ∀ s : State, s.fault = false → s.buffersBounded → s.memoriesCanonical →
    let bytes := segmentOf ((List.range s.txtLen).map s.txt.read)
    let need := 4 + lengthFieldWidth s.version.toNat + 8 * bytes.length
    ((s.version = 0 ∧ bytes.length ≤ capacity 40 s.level.toNat) ∨ (versionLegal s ∧ need ≤ 8 * dataWords s) →
      ∃ t, exec .make s = .next t ∧
        t = { s with
          seg := t.seg, segLen := bytes.length, bb := t.bb, cw := t.cw, grid := t.grid, modCnt := t.modCnt
          version := t.version, mask := t.mask, phase := .finalized, final := true, testF := false, dcValid := true
          scoreN := t.scoreN, scoreF := t.scoreF } ∧
        (s.version ≠ 0 → t.version = s.version) ∧
        (s.version = 0 → smallestVersion s.level.toNat bytes.length t.version.toNat) ∧
        t.modCnt = t.version.toNat * 4 + 17 ∧ t.gridMatchesPhase ∧
        (∀ k, t.seg.read k = match bytes[k]? with
          | some b => BitVec.ofNat 8 b
          | none => s.seg.read k) ∧
        t.bb.len = 8 * dataWords t ∧ some t.cw.length = codewordTotals[t.version.toNat - 1]?) ∧
    (s.version = 0 → capacity 40 s.level.toNat < bytes.length → ∃ t, exec .make s = .next t ∧ t.fault = true ∧
      t.cause = some .tooLongData ∧ t.finfo = BitVec.ofNat 32 bytes.length ∧ t.version = 0) ∧
    (s.version ≠ 0 → ¬ versionLegal s → ∃ t, exec .make s = .next t ∧ t.fault = true ∧
      t.cause = some .tableEntryMissing ∧ t.finfo = BitVec.ofInt 32 (missingIndex s) ∧ t.version = s.version) ∧
    (versionLegal s → 8 * dataWords s < need → ∃ t, exec .make s = .next t ∧ t.fault = true ∧
      t.cause = some .dataOverflow ∧ t.finfo = BitVec.ofNat 32 need ∧ t.version = s.version)

/-- Rules R223, R280, R290(c): the mask `MAKE` commits is the best. After a `MAKE` that completed, repeating any trial
(`MAKEIMPL` with `test`, then `SCORE`) completes and gives a score whose key is not below the committed one, above it
for every lower pattern, and equal to it for the committed pattern itself; and `MAKEIMPL` without `test` builds the
committed grid again. -/
def Obligations.MakeCommitsTheBestMask : Prop :=
  ∀ s t : State, s.fault = false → exec .make s = .next t → t.fault = false →
    (∀ (p : Fin 8), ∃ u, runCommands [.makeimpl true (BitVec.ofNat 4 p.val), .score] t = .next u ∧ u.fault = false ∧
      scoreKey t t.modCnt ≤ scoreKey u t.modCnt ∧
      (p < t.mask → scoreKey t t.modCnt < scoreKey u t.modCnt) ∧
      (p = t.mask → u.scoreN = t.scoreN ∧ u.scoreF = t.scoreF)) ∧
    exec (.makeimpl false (BitVec.ofNat 4 t.mask.val)) t = .next { t with phase := .dataMapped, final := false }

/-- Rules R290(a), R361: what `MAKE` leaves depends on the text, LEVEL and VERSION alone: two units that agree on
them, whatever else they hold, both fault, for the same reason, or end with the same grid, mask, scores, version,
bit buffer and codeword stream. -/
def Obligations.MakeDependsOnTextLevelVersionOnly : Prop :=
  ∀ s s' t t' : State, s.memoriesCanonical → s'.memoriesCanonical → s.fault = false → s'.fault = false →
    s.txtLen = s'.txtLen →
    (∀ k < s.txtLen, s.txt.read k = s'.txt.read k) → s.level = s'.level → s.version = s'.version →
    exec .make s = .next t → exec .make s' = .next t' →
    t.fault = t'.fault ∧ t.version = t'.version ∧
    (t.fault = true → t.cause = t'.cause ∧ t.finfo = t'.finfo) ∧
    (t.fault = false → t.grid = t'.grid ∧ t.modCnt = t'.modCnt ∧ t.mask = t'.mask ∧ t.scoreN = t'.scoreN ∧
      t.scoreF = t'.scoreF ∧ t.bb = t'.bb ∧ t.cw = t'.cw ∧ t.segLen = t'.segLen ∧
      ∀ k < t.segLen, t.seg.read k = t'.seg.read k)

/-! ## Reads are idempotent -/

/-- Rules R62, R71: every host read is idempotent. However many reads, of any spaces at any indices, the host makes
before it, a read gets the answer it gets without them, an unspecified element included, and nothing but the port and
the answer (log entry 4) has changed. -/
def Obligations.HostReadsAreIdempotent : Prop :=
  ∀ (s : State) (reads : List (Space × Nat)) (sp : Space) (k : Nat) (rest : List HostTxn),
    s.port = readsOf reads ++ .read sp k :: rest →
    ∃ r, step { s with port := .read sp k :: rest } = .next { s with port := rest, reply := r } ∧
      runSteps (reads.length + 1) s = .next { s with port := rest, reply := r }
end

