-- ==== Sys2Proof/Laws/State.lean ====
section
/-! SUPPORT. One lemma per field per update of the state, each true by rfl: later proofs rewrite with these and
do not unfold a record update. -/

namespace Sys2Proof.Machine

/-! ## `State.writeX` -/

@[simp] theorem State.writeX_x (s : State) (r : XReg) (v : Int) : (s.writeX r v).x = s.x.set r (toWord v) := rfl
@[simp] theorem State.writeX_p (s : State) (r : XReg) (v : Int) : (s.writeX r v).p = s.p := rfl
@[simp] theorem State.writeX_stg (s : State) (r : XReg) (v : Int) : (s.writeX r v).stg = s.stg := rfl
@[simp] theorem State.writeX_stgLen (s : State) (r : XReg) (v : Int) : (s.writeX r v).stgLen = s.stgLen := rfl
@[simp] theorem State.writeX_txt (s : State) (r : XReg) (v : Int) : (s.writeX r v).txt = s.txt := rfl
@[simp] theorem State.writeX_txtLen (s : State) (r : XReg) (v : Int) : (s.writeX r v).txtLen = s.txtLen := rfl
@[simp] theorem State.writeX_seg (s : State) (r : XReg) (v : Int) : (s.writeX r v).seg = s.seg := rfl
@[simp] theorem State.writeX_segLen (s : State) (r : XReg) (v : Int) : (s.writeX r v).segLen = s.segLen := rfl
@[simp] theorem State.writeX_bb (s : State) (r : XReg) (v : Int) : (s.writeX r v).bb = s.bb := rfl
@[simp] theorem State.writeX_blk (s : State) (r : XReg) (v : Int) : (s.writeX r v).blk = s.blk := rfl
@[simp] theorem State.writeX_cw (s : State) (r : XReg) (v : Int) : (s.writeX r v).cw = s.cw := rfl
@[simp] theorem State.writeX_grid (s : State) (r : XReg) (v : Int) : (s.writeX r v).grid = s.grid := rfl
@[simp] theorem State.writeX_modCnt (s : State) (r : XReg) (v : Int) : (s.writeX r v).modCnt = s.modCnt := rfl
@[simp] theorem State.writeX_fault (s : State) (r : XReg) (v : Int) : (s.writeX r v).fault = s.fault := rfl
@[simp] theorem State.writeX_final (s : State) (r : XReg) (v : Int) : (s.writeX r v).final = s.final := rfl
@[simp] theorem State.writeX_dcValid (s : State) (r : XReg) (v : Int) : (s.writeX r v).dcValid = s.dcValid := rfl
@[simp] theorem State.writeX_testF (s : State) (r : XReg) (v : Int) : (s.writeX r v).testF = s.testF := rfl
@[simp] theorem State.writeX_cause (s : State) (r : XReg) (v : Int) : (s.writeX r v).cause = s.cause := rfl
@[simp] theorem State.writeX_finfo (s : State) (r : XReg) (v : Int) : (s.writeX r v).finfo = s.finfo := rfl
@[simp] theorem State.writeX_fcmd (s : State) (r : XReg) (v : Int) : (s.writeX r v).fcmd = s.fcmd := rfl
@[simp] theorem State.writeX_version (s : State) (r : XReg) (v : Int) : (s.writeX r v).version = s.version := rfl
@[simp] theorem State.writeX_level (s : State) (r : XReg) (v : Int) : (s.writeX r v).level = s.level := rfl
@[simp] theorem State.writeX_mask (s : State) (r : XReg) (v : Int) : (s.writeX r v).mask = s.mask := rfl
@[simp] theorem State.writeX_phase (s : State) (r : XReg) (v : Int) : (s.writeX r v).phase = s.phase := rfl
@[simp] theorem State.writeX_scoreN (s : State) (r : XReg) (v : Int) : (s.writeX r v).scoreN = s.scoreN := rfl
@[simp] theorem State.writeX_scoreF (s : State) (r : XReg) (v : Int) : (s.writeX r v).scoreF = s.scoreF := rfl
@[simp] theorem State.writeX_port (s : State) (r : XReg) (v : Int) : (s.writeX r v).port = s.port := rfl
@[simp] theorem State.writeX_reply (s : State) (r : XReg) (v : Int) : (s.writeX r v).reply = s.reply := rfl
@[simp] theorem State.writeX_freeIdx (s : State) (r : XReg) (v : Int) : (s.writeX r v).freeIdx = s.freeIdx := rfl

/-! ## `State.writeXWord` -/

@[simp] theorem State.writeXWord_x (s : State) (r : XReg) (w : Word) : (s.writeXWord r w).x = s.x.set r w := rfl
@[simp] theorem State.writeXWord_p (s : State) (r : XReg) (w : Word) : (s.writeXWord r w).p = s.p := rfl
@[simp] theorem State.writeXWord_stg (s : State) (r : XReg) (w : Word) : (s.writeXWord r w).stg = s.stg := rfl
@[simp] theorem State.writeXWord_stgLen (s : State) (r : XReg) (w : Word) : (s.writeXWord r w).stgLen = s.stgLen := rfl
@[simp] theorem State.writeXWord_txt (s : State) (r : XReg) (w : Word) : (s.writeXWord r w).txt = s.txt := rfl
@[simp] theorem State.writeXWord_txtLen (s : State) (r : XReg) (w : Word) : (s.writeXWord r w).txtLen = s.txtLen := rfl
@[simp] theorem State.writeXWord_seg (s : State) (r : XReg) (w : Word) : (s.writeXWord r w).seg = s.seg := rfl
@[simp] theorem State.writeXWord_segLen (s : State) (r : XReg) (w : Word) : (s.writeXWord r w).segLen = s.segLen := rfl
@[simp] theorem State.writeXWord_bb (s : State) (r : XReg) (w : Word) : (s.writeXWord r w).bb = s.bb := rfl
@[simp] theorem State.writeXWord_blk (s : State) (r : XReg) (w : Word) : (s.writeXWord r w).blk = s.blk := rfl
@[simp] theorem State.writeXWord_cw (s : State) (r : XReg) (w : Word) : (s.writeXWord r w).cw = s.cw := rfl
@[simp] theorem State.writeXWord_grid (s : State) (r : XReg) (w : Word) : (s.writeXWord r w).grid = s.grid := rfl
@[simp] theorem State.writeXWord_modCnt (s : State) (r : XReg) (w : Word) : (s.writeXWord r w).modCnt = s.modCnt := rfl
@[simp] theorem State.writeXWord_fault (s : State) (r : XReg) (w : Word) : (s.writeXWord r w).fault = s.fault := rfl
@[simp] theorem State.writeXWord_final (s : State) (r : XReg) (w : Word) : (s.writeXWord r w).final = s.final := rfl
@[simp] theorem State.writeXWord_dcValid (s : State) (r : XReg) (w : Word) : (s.writeXWord r w).dcValid = s.dcValid := rfl
@[simp] theorem State.writeXWord_testF (s : State) (r : XReg) (w : Word) : (s.writeXWord r w).testF = s.testF := rfl
@[simp] theorem State.writeXWord_cause (s : State) (r : XReg) (w : Word) : (s.writeXWord r w).cause = s.cause := rfl
@[simp] theorem State.writeXWord_finfo (s : State) (r : XReg) (w : Word) : (s.writeXWord r w).finfo = s.finfo := rfl
@[simp] theorem State.writeXWord_fcmd (s : State) (r : XReg) (w : Word) : (s.writeXWord r w).fcmd = s.fcmd := rfl
@[simp] theorem State.writeXWord_version (s : State) (r : XReg) (w : Word) : (s.writeXWord r w).version = s.version := rfl
@[simp] theorem State.writeXWord_level (s : State) (r : XReg) (w : Word) : (s.writeXWord r w).level = s.level := rfl
@[simp] theorem State.writeXWord_mask (s : State) (r : XReg) (w : Word) : (s.writeXWord r w).mask = s.mask := rfl
@[simp] theorem State.writeXWord_phase (s : State) (r : XReg) (w : Word) : (s.writeXWord r w).phase = s.phase := rfl
@[simp] theorem State.writeXWord_scoreN (s : State) (r : XReg) (w : Word) : (s.writeXWord r w).scoreN = s.scoreN := rfl
@[simp] theorem State.writeXWord_scoreF (s : State) (r : XReg) (w : Word) : (s.writeXWord r w).scoreF = s.scoreF := rfl
@[simp] theorem State.writeXWord_port (s : State) (r : XReg) (w : Word) : (s.writeXWord r w).port = s.port := rfl
@[simp] theorem State.writeXWord_reply (s : State) (r : XReg) (w : Word) : (s.writeXWord r w).reply = s.reply := rfl
@[simp] theorem State.writeXWord_freeIdx (s : State) (r : XReg) (w : Word) : (s.writeXWord r w).freeIdx = s.freeIdx := rfl

/-! ## `State.writeP` -/

@[simp] theorem State.writeP_x (s : State) (k : PReg) (c : Poly) : (s.writeP k c).x = s.x := rfl
@[simp] theorem State.writeP_p (s : State) (k : PReg) (c : Poly) : (s.writeP k c).p = s.p.set k c := rfl
@[simp] theorem State.writeP_stg (s : State) (k : PReg) (c : Poly) : (s.writeP k c).stg = s.stg := rfl
@[simp] theorem State.writeP_stgLen (s : State) (k : PReg) (c : Poly) : (s.writeP k c).stgLen = s.stgLen := rfl
@[simp] theorem State.writeP_txt (s : State) (k : PReg) (c : Poly) : (s.writeP k c).txt = s.txt := rfl
@[simp] theorem State.writeP_txtLen (s : State) (k : PReg) (c : Poly) : (s.writeP k c).txtLen = s.txtLen := rfl
@[simp] theorem State.writeP_seg (s : State) (k : PReg) (c : Poly) : (s.writeP k c).seg = s.seg := rfl
@[simp] theorem State.writeP_segLen (s : State) (k : PReg) (c : Poly) : (s.writeP k c).segLen = s.segLen := rfl
@[simp] theorem State.writeP_bb (s : State) (k : PReg) (c : Poly) : (s.writeP k c).bb = s.bb := rfl
@[simp] theorem State.writeP_blk (s : State) (k : PReg) (c : Poly) : (s.writeP k c).blk = s.blk := rfl
@[simp] theorem State.writeP_cw (s : State) (k : PReg) (c : Poly) : (s.writeP k c).cw = s.cw := rfl
@[simp] theorem State.writeP_grid (s : State) (k : PReg) (c : Poly) : (s.writeP k c).grid = s.grid := rfl
@[simp] theorem State.writeP_modCnt (s : State) (k : PReg) (c : Poly) : (s.writeP k c).modCnt = s.modCnt := rfl
@[simp] theorem State.writeP_fault (s : State) (k : PReg) (c : Poly) : (s.writeP k c).fault = s.fault := rfl
@[simp] theorem State.writeP_final (s : State) (k : PReg) (c : Poly) : (s.writeP k c).final = s.final := rfl
@[simp] theorem State.writeP_dcValid (s : State) (k : PReg) (c : Poly) : (s.writeP k c).dcValid = s.dcValid := rfl
@[simp] theorem State.writeP_testF (s : State) (k : PReg) (c : Poly) : (s.writeP k c).testF = s.testF := rfl
@[simp] theorem State.writeP_cause (s : State) (k : PReg) (c : Poly) : (s.writeP k c).cause = s.cause := rfl
@[simp] theorem State.writeP_finfo (s : State) (k : PReg) (c : Poly) : (s.writeP k c).finfo = s.finfo := rfl
@[simp] theorem State.writeP_fcmd (s : State) (k : PReg) (c : Poly) : (s.writeP k c).fcmd = s.fcmd := rfl
@[simp] theorem State.writeP_version (s : State) (k : PReg) (c : Poly) : (s.writeP k c).version = s.version := rfl
@[simp] theorem State.writeP_level (s : State) (k : PReg) (c : Poly) : (s.writeP k c).level = s.level := rfl
@[simp] theorem State.writeP_mask (s : State) (k : PReg) (c : Poly) : (s.writeP k c).mask = s.mask := rfl
@[simp] theorem State.writeP_phase (s : State) (k : PReg) (c : Poly) : (s.writeP k c).phase = s.phase := rfl
@[simp] theorem State.writeP_scoreN (s : State) (k : PReg) (c : Poly) : (s.writeP k c).scoreN = s.scoreN := rfl
@[simp] theorem State.writeP_scoreF (s : State) (k : PReg) (c : Poly) : (s.writeP k c).scoreF = s.scoreF := rfl
@[simp] theorem State.writeP_port (s : State) (k : PReg) (c : Poly) : (s.writeP k c).port = s.port := rfl
@[simp] theorem State.writeP_reply (s : State) (k : PReg) (c : Poly) : (s.writeP k c).reply = s.reply := rfl
@[simp] theorem State.writeP_freeIdx (s : State) (k : PReg) (c : Poly) : (s.writeP k c).freeIdx = s.freeIdx := rfl

/-! ## `State.clearDcValid` -/

@[simp] theorem State.clearDcValid_x (s : State) : (s.clearDcValid).x = s.x := rfl
@[simp] theorem State.clearDcValid_p (s : State) : (s.clearDcValid).p = s.p := rfl
@[simp] theorem State.clearDcValid_stg (s : State) : (s.clearDcValid).stg = s.stg := rfl
@[simp] theorem State.clearDcValid_stgLen (s : State) : (s.clearDcValid).stgLen = s.stgLen := rfl
@[simp] theorem State.clearDcValid_txt (s : State) : (s.clearDcValid).txt = s.txt := rfl
@[simp] theorem State.clearDcValid_txtLen (s : State) : (s.clearDcValid).txtLen = s.txtLen := rfl
@[simp] theorem State.clearDcValid_seg (s : State) : (s.clearDcValid).seg = s.seg := rfl
@[simp] theorem State.clearDcValid_segLen (s : State) : (s.clearDcValid).segLen = s.segLen := rfl
@[simp] theorem State.clearDcValid_bb (s : State) : (s.clearDcValid).bb = s.bb := rfl
@[simp] theorem State.clearDcValid_blk (s : State) : (s.clearDcValid).blk = s.blk := rfl
@[simp] theorem State.clearDcValid_cw (s : State) : (s.clearDcValid).cw = s.cw := rfl
@[simp] theorem State.clearDcValid_grid (s : State) : (s.clearDcValid).grid = s.grid := rfl
@[simp] theorem State.clearDcValid_modCnt (s : State) : (s.clearDcValid).modCnt = s.modCnt := rfl
@[simp] theorem State.clearDcValid_fault (s : State) : (s.clearDcValid).fault = s.fault := rfl
@[simp] theorem State.clearDcValid_final (s : State) : (s.clearDcValid).final = s.final := rfl
@[simp] theorem State.clearDcValid_dcValid (s : State) : (s.clearDcValid).dcValid = false := rfl
@[simp] theorem State.clearDcValid_testF (s : State) : (s.clearDcValid).testF = s.testF := rfl
@[simp] theorem State.clearDcValid_cause (s : State) : (s.clearDcValid).cause = s.cause := rfl
@[simp] theorem State.clearDcValid_finfo (s : State) : (s.clearDcValid).finfo = s.finfo := rfl
@[simp] theorem State.clearDcValid_fcmd (s : State) : (s.clearDcValid).fcmd = s.fcmd := rfl
@[simp] theorem State.clearDcValid_version (s : State) : (s.clearDcValid).version = s.version := rfl
@[simp] theorem State.clearDcValid_level (s : State) : (s.clearDcValid).level = s.level := rfl
@[simp] theorem State.clearDcValid_mask (s : State) : (s.clearDcValid).mask = s.mask := rfl
@[simp] theorem State.clearDcValid_phase (s : State) : (s.clearDcValid).phase = s.phase := rfl
@[simp] theorem State.clearDcValid_scoreN (s : State) : (s.clearDcValid).scoreN = s.scoreN := rfl
@[simp] theorem State.clearDcValid_scoreF (s : State) : (s.clearDcValid).scoreF = s.scoreF := rfl
@[simp] theorem State.clearDcValid_port (s : State) : (s.clearDcValid).port = s.port := rfl
@[simp] theorem State.clearDcValid_reply (s : State) : (s.clearDcValid).reply = s.reply := rfl
@[simp] theorem State.clearDcValid_freeIdx (s : State) : (s.clearDcValid).freeIdx = s.freeIdx := rfl

/-! ## `State.setDcValid` -/

@[simp] theorem State.setDcValid_x (s : State) : (s.setDcValid).x = s.x := rfl
@[simp] theorem State.setDcValid_p (s : State) : (s.setDcValid).p = s.p := rfl
@[simp] theorem State.setDcValid_stg (s : State) : (s.setDcValid).stg = s.stg := rfl
@[simp] theorem State.setDcValid_stgLen (s : State) : (s.setDcValid).stgLen = s.stgLen := rfl
@[simp] theorem State.setDcValid_txt (s : State) : (s.setDcValid).txt = s.txt := rfl
@[simp] theorem State.setDcValid_txtLen (s : State) : (s.setDcValid).txtLen = s.txtLen := rfl
@[simp] theorem State.setDcValid_seg (s : State) : (s.setDcValid).seg = s.seg := rfl
@[simp] theorem State.setDcValid_segLen (s : State) : (s.setDcValid).segLen = s.segLen := rfl
@[simp] theorem State.setDcValid_bb (s : State) : (s.setDcValid).bb = s.bb := rfl
@[simp] theorem State.setDcValid_blk (s : State) : (s.setDcValid).blk = s.blk := rfl
@[simp] theorem State.setDcValid_cw (s : State) : (s.setDcValid).cw = s.cw := rfl
@[simp] theorem State.setDcValid_grid (s : State) : (s.setDcValid).grid = s.grid := rfl
@[simp] theorem State.setDcValid_modCnt (s : State) : (s.setDcValid).modCnt = s.modCnt := rfl
@[simp] theorem State.setDcValid_fault (s : State) : (s.setDcValid).fault = s.fault := rfl
@[simp] theorem State.setDcValid_final (s : State) : (s.setDcValid).final = s.final := rfl
@[simp] theorem State.setDcValid_dcValid (s : State) : (s.setDcValid).dcValid = true := rfl
@[simp] theorem State.setDcValid_testF (s : State) : (s.setDcValid).testF = s.testF := rfl
@[simp] theorem State.setDcValid_cause (s : State) : (s.setDcValid).cause = s.cause := rfl
@[simp] theorem State.setDcValid_finfo (s : State) : (s.setDcValid).finfo = s.finfo := rfl
@[simp] theorem State.setDcValid_fcmd (s : State) : (s.setDcValid).fcmd = s.fcmd := rfl
@[simp] theorem State.setDcValid_version (s : State) : (s.setDcValid).version = s.version := rfl
@[simp] theorem State.setDcValid_level (s : State) : (s.setDcValid).level = s.level := rfl
@[simp] theorem State.setDcValid_mask (s : State) : (s.setDcValid).mask = s.mask := rfl
@[simp] theorem State.setDcValid_phase (s : State) : (s.setDcValid).phase = s.phase := rfl
@[simp] theorem State.setDcValid_scoreN (s : State) : (s.setDcValid).scoreN = s.scoreN := rfl
@[simp] theorem State.setDcValid_scoreF (s : State) : (s.setDcValid).scoreF = s.scoreF := rfl
@[simp] theorem State.setDcValid_port (s : State) : (s.setDcValid).port = s.port := rfl
@[simp] theorem State.setDcValid_reply (s : State) : (s.setDcValid).reply = s.reply := rfl
@[simp] theorem State.setDcValid_freeIdx (s : State) : (s.setDcValid).freeIdx = s.freeIdx := rfl

/-! ## `State.writeVersion` -/

@[simp] theorem State.writeVersion_x (s : State) (w : Word) : (s.writeVersion w).x = s.x := rfl
@[simp] theorem State.writeVersion_p (s : State) (w : Word) : (s.writeVersion w).p = s.p := rfl
@[simp] theorem State.writeVersion_stg (s : State) (w : Word) : (s.writeVersion w).stg = s.stg := rfl
@[simp] theorem State.writeVersion_stgLen (s : State) (w : Word) : (s.writeVersion w).stgLen = s.stgLen := rfl
@[simp] theorem State.writeVersion_txt (s : State) (w : Word) : (s.writeVersion w).txt = s.txt := rfl
@[simp] theorem State.writeVersion_txtLen (s : State) (w : Word) : (s.writeVersion w).txtLen = s.txtLen := rfl
@[simp] theorem State.writeVersion_seg (s : State) (w : Word) : (s.writeVersion w).seg = s.seg := rfl
@[simp] theorem State.writeVersion_segLen (s : State) (w : Word) : (s.writeVersion w).segLen = s.segLen := rfl
@[simp] theorem State.writeVersion_bb (s : State) (w : Word) : (s.writeVersion w).bb = s.bb := rfl
@[simp] theorem State.writeVersion_blk (s : State) (w : Word) : (s.writeVersion w).blk = s.blk := rfl
@[simp] theorem State.writeVersion_cw (s : State) (w : Word) : (s.writeVersion w).cw = s.cw := rfl
@[simp] theorem State.writeVersion_grid (s : State) (w : Word) : (s.writeVersion w).grid = s.grid := rfl
@[simp] theorem State.writeVersion_modCnt (s : State) (w : Word) : (s.writeVersion w).modCnt = s.modCnt := rfl
@[simp] theorem State.writeVersion_fault (s : State) (w : Word) : (s.writeVersion w).fault = s.fault := rfl
@[simp] theorem State.writeVersion_final (s : State) (w : Word) : (s.writeVersion w).final = s.final := rfl
@[simp] theorem State.writeVersion_dcValid (s : State) (w : Word) : (s.writeVersion w).dcValid = false := rfl
@[simp] theorem State.writeVersion_testF (s : State) (w : Word) : (s.writeVersion w).testF = s.testF := rfl
@[simp] theorem State.writeVersion_cause (s : State) (w : Word) : (s.writeVersion w).cause = s.cause := rfl
@[simp] theorem State.writeVersion_finfo (s : State) (w : Word) : (s.writeVersion w).finfo = s.finfo := rfl
@[simp] theorem State.writeVersion_fcmd (s : State) (w : Word) : (s.writeVersion w).fcmd = s.fcmd := rfl
@[simp] theorem State.writeVersion_version (s : State) (w : Word) : (s.writeVersion w).version = w.setWidth 8 := rfl
@[simp] theorem State.writeVersion_level (s : State) (w : Word) : (s.writeVersion w).level = s.level := rfl
@[simp] theorem State.writeVersion_mask (s : State) (w : Word) : (s.writeVersion w).mask = s.mask := rfl
@[simp] theorem State.writeVersion_phase (s : State) (w : Word) : (s.writeVersion w).phase = s.phase := rfl
@[simp] theorem State.writeVersion_scoreN (s : State) (w : Word) : (s.writeVersion w).scoreN = s.scoreN := rfl
@[simp] theorem State.writeVersion_scoreF (s : State) (w : Word) : (s.writeVersion w).scoreF = s.scoreF := rfl
@[simp] theorem State.writeVersion_port (s : State) (w : Word) : (s.writeVersion w).port = s.port := rfl
@[simp] theorem State.writeVersion_reply (s : State) (w : Word) : (s.writeVersion w).reply = s.reply := rfl
@[simp] theorem State.writeVersion_freeIdx (s : State) (w : Word) : (s.writeVersion w).freeIdx = s.freeIdx := rfl

/-! ## `State.writeLevel` -/

@[simp] theorem State.writeLevel_x (s : State) (w : Word) : (s.writeLevel w).x = s.x := rfl
@[simp] theorem State.writeLevel_p (s : State) (w : Word) : (s.writeLevel w).p = s.p := rfl
@[simp] theorem State.writeLevel_stg (s : State) (w : Word) : (s.writeLevel w).stg = s.stg := rfl
@[simp] theorem State.writeLevel_stgLen (s : State) (w : Word) : (s.writeLevel w).stgLen = s.stgLen := rfl
@[simp] theorem State.writeLevel_txt (s : State) (w : Word) : (s.writeLevel w).txt = s.txt := rfl
@[simp] theorem State.writeLevel_txtLen (s : State) (w : Word) : (s.writeLevel w).txtLen = s.txtLen := rfl
@[simp] theorem State.writeLevel_seg (s : State) (w : Word) : (s.writeLevel w).seg = s.seg := rfl
@[simp] theorem State.writeLevel_segLen (s : State) (w : Word) : (s.writeLevel w).segLen = s.segLen := rfl
@[simp] theorem State.writeLevel_bb (s : State) (w : Word) : (s.writeLevel w).bb = s.bb := rfl
@[simp] theorem State.writeLevel_blk (s : State) (w : Word) : (s.writeLevel w).blk = s.blk := rfl
@[simp] theorem State.writeLevel_cw (s : State) (w : Word) : (s.writeLevel w).cw = s.cw := rfl
@[simp] theorem State.writeLevel_grid (s : State) (w : Word) : (s.writeLevel w).grid = s.grid := rfl
@[simp] theorem State.writeLevel_modCnt (s : State) (w : Word) : (s.writeLevel w).modCnt = s.modCnt := rfl
@[simp] theorem State.writeLevel_fault (s : State) (w : Word) : (s.writeLevel w).fault = s.fault := rfl
@[simp] theorem State.writeLevel_final (s : State) (w : Word) : (s.writeLevel w).final = s.final := rfl
@[simp] theorem State.writeLevel_dcValid (s : State) (w : Word) : (s.writeLevel w).dcValid = false := rfl
@[simp] theorem State.writeLevel_testF (s : State) (w : Word) : (s.writeLevel w).testF = s.testF := rfl
@[simp] theorem State.writeLevel_cause (s : State) (w : Word) : (s.writeLevel w).cause = s.cause := rfl
@[simp] theorem State.writeLevel_finfo (s : State) (w : Word) : (s.writeLevel w).finfo = s.finfo := rfl
@[simp] theorem State.writeLevel_fcmd (s : State) (w : Word) : (s.writeLevel w).fcmd = s.fcmd := rfl
@[simp] theorem State.writeLevel_version (s : State) (w : Word) : (s.writeLevel w).version = s.version := rfl
@[simp] theorem State.writeLevel_level (s : State) (w : Word) : (s.writeLevel w).level = w.setWidth 2 := rfl
@[simp] theorem State.writeLevel_mask (s : State) (w : Word) : (s.writeLevel w).mask = s.mask := rfl
@[simp] theorem State.writeLevel_phase (s : State) (w : Word) : (s.writeLevel w).phase = s.phase := rfl
@[simp] theorem State.writeLevel_scoreN (s : State) (w : Word) : (s.writeLevel w).scoreN = s.scoreN := rfl
@[simp] theorem State.writeLevel_scoreF (s : State) (w : Word) : (s.writeLevel w).scoreF = s.scoreF := rfl
@[simp] theorem State.writeLevel_port (s : State) (w : Word) : (s.writeLevel w).port = s.port := rfl
@[simp] theorem State.writeLevel_reply (s : State) (w : Word) : (s.writeLevel w).reply = s.reply := rfl
@[simp] theorem State.writeLevel_freeIdx (s : State) (w : Word) : (s.writeLevel w).freeIdx = s.freeIdx := rfl

/-! ## `State.withBb` -/

@[simp] theorem State.withBb_x (s : State) (b : BitBuffer) : (s.withBb b).x = s.x := rfl
@[simp] theorem State.withBb_p (s : State) (b : BitBuffer) : (s.withBb b).p = s.p := rfl
@[simp] theorem State.withBb_stg (s : State) (b : BitBuffer) : (s.withBb b).stg = s.stg := rfl
@[simp] theorem State.withBb_stgLen (s : State) (b : BitBuffer) : (s.withBb b).stgLen = s.stgLen := rfl
@[simp] theorem State.withBb_txt (s : State) (b : BitBuffer) : (s.withBb b).txt = s.txt := rfl
@[simp] theorem State.withBb_txtLen (s : State) (b : BitBuffer) : (s.withBb b).txtLen = s.txtLen := rfl
@[simp] theorem State.withBb_seg (s : State) (b : BitBuffer) : (s.withBb b).seg = s.seg := rfl
@[simp] theorem State.withBb_segLen (s : State) (b : BitBuffer) : (s.withBb b).segLen = s.segLen := rfl
@[simp] theorem State.withBb_bb (s : State) (b : BitBuffer) : (s.withBb b).bb = b := rfl
@[simp] theorem State.withBb_blk (s : State) (b : BitBuffer) : (s.withBb b).blk = s.blk := rfl
@[simp] theorem State.withBb_cw (s : State) (b : BitBuffer) : (s.withBb b).cw = s.cw := rfl
@[simp] theorem State.withBb_grid (s : State) (b : BitBuffer) : (s.withBb b).grid = s.grid := rfl
@[simp] theorem State.withBb_modCnt (s : State) (b : BitBuffer) : (s.withBb b).modCnt = s.modCnt := rfl
@[simp] theorem State.withBb_fault (s : State) (b : BitBuffer) : (s.withBb b).fault = s.fault := rfl
@[simp] theorem State.withBb_final (s : State) (b : BitBuffer) : (s.withBb b).final = s.final := rfl
@[simp] theorem State.withBb_dcValid (s : State) (b : BitBuffer) : (s.withBb b).dcValid = false := rfl
@[simp] theorem State.withBb_testF (s : State) (b : BitBuffer) : (s.withBb b).testF = s.testF := rfl
@[simp] theorem State.withBb_cause (s : State) (b : BitBuffer) : (s.withBb b).cause = s.cause := rfl
@[simp] theorem State.withBb_finfo (s : State) (b : BitBuffer) : (s.withBb b).finfo = s.finfo := rfl
@[simp] theorem State.withBb_fcmd (s : State) (b : BitBuffer) : (s.withBb b).fcmd = s.fcmd := rfl
@[simp] theorem State.withBb_version (s : State) (b : BitBuffer) : (s.withBb b).version = s.version := rfl
@[simp] theorem State.withBb_level (s : State) (b : BitBuffer) : (s.withBb b).level = s.level := rfl
@[simp] theorem State.withBb_mask (s : State) (b : BitBuffer) : (s.withBb b).mask = s.mask := rfl
@[simp] theorem State.withBb_phase (s : State) (b : BitBuffer) : (s.withBb b).phase = s.phase := rfl
@[simp] theorem State.withBb_scoreN (s : State) (b : BitBuffer) : (s.withBb b).scoreN = s.scoreN := rfl
@[simp] theorem State.withBb_scoreF (s : State) (b : BitBuffer) : (s.withBb b).scoreF = s.scoreF := rfl
@[simp] theorem State.withBb_port (s : State) (b : BitBuffer) : (s.withBb b).port = s.port := rfl
@[simp] theorem State.withBb_reply (s : State) (b : BitBuffer) : (s.withBb b).reply = s.reply := rfl
@[simp] theorem State.withBb_freeIdx (s : State) (b : BitBuffer) : (s.withBb b).freeIdx = s.freeIdx := rfl

/-! ## `State.writeScore` -/

@[simp] theorem State.writeScore_x (s : State) (sc : Score) : (s.writeScore sc).x = s.x := rfl
@[simp] theorem State.writeScore_p (s : State) (sc : Score) : (s.writeScore sc).p = s.p := rfl
@[simp] theorem State.writeScore_stg (s : State) (sc : Score) : (s.writeScore sc).stg = s.stg := rfl
@[simp] theorem State.writeScore_stgLen (s : State) (sc : Score) : (s.writeScore sc).stgLen = s.stgLen := rfl
@[simp] theorem State.writeScore_txt (s : State) (sc : Score) : (s.writeScore sc).txt = s.txt := rfl
@[simp] theorem State.writeScore_txtLen (s : State) (sc : Score) : (s.writeScore sc).txtLen = s.txtLen := rfl
@[simp] theorem State.writeScore_seg (s : State) (sc : Score) : (s.writeScore sc).seg = s.seg := rfl
@[simp] theorem State.writeScore_segLen (s : State) (sc : Score) : (s.writeScore sc).segLen = s.segLen := rfl
@[simp] theorem State.writeScore_bb (s : State) (sc : Score) : (s.writeScore sc).bb = s.bb := rfl
@[simp] theorem State.writeScore_blk (s : State) (sc : Score) : (s.writeScore sc).blk = s.blk := rfl
@[simp] theorem State.writeScore_cw (s : State) (sc : Score) : (s.writeScore sc).cw = s.cw := rfl
@[simp] theorem State.writeScore_grid (s : State) (sc : Score) : (s.writeScore sc).grid = s.grid := rfl
@[simp] theorem State.writeScore_modCnt (s : State) (sc : Score) : (s.writeScore sc).modCnt = s.modCnt := rfl
@[simp] theorem State.writeScore_fault (s : State) (sc : Score) : (s.writeScore sc).fault = s.fault := rfl
@[simp] theorem State.writeScore_final (s : State) (sc : Score) : (s.writeScore sc).final = s.final := rfl
@[simp] theorem State.writeScore_dcValid (s : State) (sc : Score) : (s.writeScore sc).dcValid = s.dcValid := rfl
@[simp] theorem State.writeScore_testF (s : State) (sc : Score) : (s.writeScore sc).testF = s.testF := rfl
@[simp] theorem State.writeScore_cause (s : State) (sc : Score) : (s.writeScore sc).cause = s.cause := rfl
@[simp] theorem State.writeScore_finfo (s : State) (sc : Score) : (s.writeScore sc).finfo = s.finfo := rfl
@[simp] theorem State.writeScore_fcmd (s : State) (sc : Score) : (s.writeScore sc).fcmd = s.fcmd := rfl
@[simp] theorem State.writeScore_version (s : State) (sc : Score) : (s.writeScore sc).version = s.version := rfl
@[simp] theorem State.writeScore_level (s : State) (sc : Score) : (s.writeScore sc).level = s.level := rfl
@[simp] theorem State.writeScore_mask (s : State) (sc : Score) : (s.writeScore sc).mask = s.mask := rfl
@[simp] theorem State.writeScore_phase (s : State) (sc : Score) : (s.writeScore sc).phase = s.phase := rfl
@[simp] theorem State.writeScore_scoreN (s : State) (sc : Score) : (s.writeScore sc).scoreN = countWord sc.n := rfl
@[simp] theorem State.writeScore_scoreF (s : State) (sc : Score) : (s.writeScore sc).scoreF = countWord sc.f := rfl
@[simp] theorem State.writeScore_port (s : State) (sc : Score) : (s.writeScore sc).port = s.port := rfl
@[simp] theorem State.writeScore_reply (s : State) (sc : Score) : (s.writeScore sc).reply = s.reply := rfl
@[simp] theorem State.writeScore_freeIdx (s : State) (sc : Score) : (s.writeScore sc).freeIdx = s.freeIdx := rfl

/-! ## `faultEntry` -/

@[simp] theorem faultEntry_x (s : State) (w : Word) (c : Cause) (info : Int) : (faultEntry w c info s).x = s.x := rfl
@[simp] theorem faultEntry_p (s : State) (w : Word) (c : Cause) (info : Int) : (faultEntry w c info s).p = s.p := rfl
@[simp] theorem faultEntry_stg (s : State) (w : Word) (c : Cause) (info : Int) : (faultEntry w c info s).stg = s.stg := rfl
@[simp] theorem faultEntry_stgLen (s : State) (w : Word) (c : Cause) (info : Int) : (faultEntry w c info s).stgLen = s.stgLen := rfl
@[simp] theorem faultEntry_txt (s : State) (w : Word) (c : Cause) (info : Int) : (faultEntry w c info s).txt = s.txt := rfl
@[simp] theorem faultEntry_txtLen (s : State) (w : Word) (c : Cause) (info : Int) : (faultEntry w c info s).txtLen = s.txtLen := rfl
@[simp] theorem faultEntry_seg (s : State) (w : Word) (c : Cause) (info : Int) : (faultEntry w c info s).seg = s.seg := rfl
@[simp] theorem faultEntry_segLen (s : State) (w : Word) (c : Cause) (info : Int) : (faultEntry w c info s).segLen = s.segLen := rfl
@[simp] theorem faultEntry_bb (s : State) (w : Word) (c : Cause) (info : Int) : (faultEntry w c info s).bb = s.bb := rfl
@[simp] theorem faultEntry_blk (s : State) (w : Word) (c : Cause) (info : Int) : (faultEntry w c info s).blk = s.blk := rfl
@[simp] theorem faultEntry_cw (s : State) (w : Word) (c : Cause) (info : Int) : (faultEntry w c info s).cw = s.cw := rfl
@[simp] theorem faultEntry_grid (s : State) (w : Word) (c : Cause) (info : Int) : (faultEntry w c info s).grid = [] := rfl
@[simp] theorem faultEntry_modCnt (s : State) (w : Word) (c : Cause) (info : Int) : (faultEntry w c info s).modCnt = 0 := rfl
@[simp] theorem faultEntry_fault (s : State) (w : Word) (c : Cause) (info : Int) : (faultEntry w c info s).fault = true := rfl
@[simp] theorem faultEntry_final (s : State) (w : Word) (c : Cause) (info : Int) : (faultEntry w c info s).final = false := rfl
@[simp] theorem faultEntry_dcValid (s : State) (w : Word) (c : Cause) (info : Int) : (faultEntry w c info s).dcValid = false := rfl
@[simp] theorem faultEntry_testF (s : State) (w : Word) (c : Cause) (info : Int) : (faultEntry w c info s).testF = false := rfl
@[simp] theorem faultEntry_cause (s : State) (w : Word) (c : Cause) (info : Int) : (faultEntry w c info s).cause = some c := rfl
@[simp] theorem faultEntry_finfo (s : State) (w : Word) (c : Cause) (info : Int) : (faultEntry w c info s).finfo = toWord info := rfl
@[simp] theorem faultEntry_fcmd (s : State) (w : Word) (c : Cause) (info : Int) : (faultEntry w c info s).fcmd = w := rfl
@[simp] theorem faultEntry_version (s : State) (w : Word) (c : Cause) (info : Int) : (faultEntry w c info s).version = s.version := rfl
@[simp] theorem faultEntry_level (s : State) (w : Word) (c : Cause) (info : Int) : (faultEntry w c info s).level = s.level := rfl
@[simp] theorem faultEntry_mask (s : State) (w : Word) (c : Cause) (info : Int) : (faultEntry w c info s).mask = s.mask := rfl
@[simp] theorem faultEntry_phase (s : State) (w : Word) (c : Cause) (info : Int) : (faultEntry w c info s).phase = .empty := rfl
@[simp] theorem faultEntry_scoreN (s : State) (w : Word) (c : Cause) (info : Int) : (faultEntry w c info s).scoreN = s.scoreN := rfl
@[simp] theorem faultEntry_scoreF (s : State) (w : Word) (c : Cause) (info : Int) : (faultEntry w c info s).scoreF = s.scoreF := rfl
@[simp] theorem faultEntry_port (s : State) (w : Word) (c : Cause) (info : Int) : (faultEntry w c info s).port = s.port := rfl
@[simp] theorem faultEntry_reply (s : State) (w : Word) (c : Cause) (info : Int) : (faultEntry w c info s).reply = s.reply := rfl
@[simp] theorem faultEntry_freeIdx (s : State) (w : Word) (c : Cause) (info : Int) : (faultEntry w c info s).freeIdx = s.freeIdx := rfl

/-! ## `State.clear` -/

@[simp] theorem State.clear_x (s : State) : (s.clear).x = s.x := rfl
@[simp] theorem State.clear_p (s : State) : (s.clear).p = Vector.replicate 4 [] := rfl
@[simp] theorem State.clear_stg (s : State) : (s.clear).stg = s.stg := rfl
@[simp] theorem State.clear_stgLen (s : State) : (s.clear).stgLen = 0 := rfl
@[simp] theorem State.clear_txt (s : State) : (s.clear).txt = s.txt := rfl
@[simp] theorem State.clear_txtLen (s : State) : (s.clear).txtLen = 0 := rfl
@[simp] theorem State.clear_seg (s : State) : (s.clear).seg = s.seg := rfl
@[simp] theorem State.clear_segLen (s : State) : (s.clear).segLen = 0 := rfl
@[simp] theorem State.clear_bb (s : State) : (s.clear).bb = .empty := rfl
@[simp] theorem State.clear_blk (s : State) : (s.clear).blk = [] := rfl
@[simp] theorem State.clear_cw (s : State) : (s.clear).cw = [] := rfl
@[simp] theorem State.clear_grid (s : State) : (s.clear).grid = [] := rfl
@[simp] theorem State.clear_modCnt (s : State) : (s.clear).modCnt = 0 := rfl
@[simp] theorem State.clear_fault (s : State) : (s.clear).fault = false := rfl
@[simp] theorem State.clear_final (s : State) : (s.clear).final = false := rfl
@[simp] theorem State.clear_dcValid (s : State) : (s.clear).dcValid = false := rfl
@[simp] theorem State.clear_testF (s : State) : (s.clear).testF = false := rfl
@[simp] theorem State.clear_cause (s : State) : (s.clear).cause = none := rfl
@[simp] theorem State.clear_finfo (s : State) : (s.clear).finfo = 0 := rfl
@[simp] theorem State.clear_fcmd (s : State) : (s.clear).fcmd = 0 := rfl
@[simp] theorem State.clear_version (s : State) : (s.clear).version = 0 := rfl
@[simp] theorem State.clear_level (s : State) : (s.clear).level = 0 := rfl
@[simp] theorem State.clear_mask (s : State) : (s.clear).mask = 0 := rfl
@[simp] theorem State.clear_phase (s : State) : (s.clear).phase = .empty := rfl
@[simp] theorem State.clear_scoreN (s : State) : (s.clear).scoreN = 0 := rfl
@[simp] theorem State.clear_scoreF (s : State) : (s.clear).scoreF = 0 := rfl
@[simp] theorem State.clear_port (s : State) : (s.clear).port = s.port := rfl
@[simp] theorem State.clear_reply (s : State) : (s.clear).reply = s.reply := rfl
@[simp] theorem State.clear_freeIdx (s : State) : (s.clear).freeIdx = s.freeIdx := rfl

/-! ## `State.freeBb` -/

@[simp] theorem State.freeBb_x (s : State) : (s.freeBb).x = s.x := rfl
@[simp] theorem State.freeBb_p (s : State) : (s.freeBb).p = s.p := rfl
@[simp] theorem State.freeBb_stg (s : State) : (s.freeBb).stg = s.stg := rfl
@[simp] theorem State.freeBb_stgLen (s : State) : (s.freeBb).stgLen = s.stgLen := rfl
@[simp] theorem State.freeBb_txt (s : State) : (s.freeBb).txt = s.txt := rfl
@[simp] theorem State.freeBb_txtLen (s : State) : (s.freeBb).txtLen = s.txtLen := rfl
@[simp] theorem State.freeBb_seg (s : State) : (s.freeBb).seg = s.seg := rfl
@[simp] theorem State.freeBb_segLen (s : State) : (s.freeBb).segLen = s.segLen := rfl
@[simp] theorem State.freeBb_blk (s : State) : (s.freeBb).blk = s.blk := rfl
@[simp] theorem State.freeBb_cw (s : State) : (s.freeBb).cw = s.cw := rfl
@[simp] theorem State.freeBb_grid (s : State) : (s.freeBb).grid = s.grid := rfl
@[simp] theorem State.freeBb_modCnt (s : State) : (s.freeBb).modCnt = s.modCnt := rfl
@[simp] theorem State.freeBb_fault (s : State) : (s.freeBb).fault = s.fault := rfl
@[simp] theorem State.freeBb_final (s : State) : (s.freeBb).final = s.final := rfl
@[simp] theorem State.freeBb_dcValid (s : State) : (s.freeBb).dcValid = s.dcValid := rfl
@[simp] theorem State.freeBb_testF (s : State) : (s.freeBb).testF = s.testF := rfl
@[simp] theorem State.freeBb_cause (s : State) : (s.freeBb).cause = s.cause := rfl
@[simp] theorem State.freeBb_finfo (s : State) : (s.freeBb).finfo = s.finfo := rfl
@[simp] theorem State.freeBb_fcmd (s : State) : (s.freeBb).fcmd = s.fcmd := rfl
@[simp] theorem State.freeBb_version (s : State) : (s.freeBb).version = s.version := rfl
@[simp] theorem State.freeBb_level (s : State) : (s.freeBb).level = s.level := rfl
@[simp] theorem State.freeBb_mask (s : State) : (s.freeBb).mask = s.mask := rfl
@[simp] theorem State.freeBb_phase (s : State) : (s.freeBb).phase = s.phase := rfl
@[simp] theorem State.freeBb_scoreN (s : State) : (s.freeBb).scoreN = s.scoreN := rfl
@[simp] theorem State.freeBb_scoreF (s : State) : (s.freeBb).scoreF = s.scoreF := rfl
@[simp] theorem State.freeBb_port (s : State) : (s.freeBb).port = s.port := rfl
@[simp] theorem State.freeBb_reply (s : State) : (s.freeBb).reply = s.reply := rfl
@[simp] theorem State.freeBb_freeIdx (s : State) : (s.freeBb).freeIdx = s.freeIdx := rfl

/-! ## `State.freeCw` -/

@[simp] theorem State.freeCw_x (s : State) : (s.freeCw).x = s.x := rfl
@[simp] theorem State.freeCw_p (s : State) : (s.freeCw).p = s.p := rfl
@[simp] theorem State.freeCw_stg (s : State) : (s.freeCw).stg = s.stg := rfl
@[simp] theorem State.freeCw_stgLen (s : State) : (s.freeCw).stgLen = s.stgLen := rfl
@[simp] theorem State.freeCw_txt (s : State) : (s.freeCw).txt = s.txt := rfl
@[simp] theorem State.freeCw_txtLen (s : State) : (s.freeCw).txtLen = s.txtLen := rfl
@[simp] theorem State.freeCw_seg (s : State) : (s.freeCw).seg = s.seg := rfl
@[simp] theorem State.freeCw_segLen (s : State) : (s.freeCw).segLen = s.segLen := rfl
@[simp] theorem State.freeCw_bb (s : State) : (s.freeCw).bb = s.bb := rfl
@[simp] theorem State.freeCw_blk (s : State) : (s.freeCw).blk = s.blk := rfl
@[simp] theorem State.freeCw_grid (s : State) : (s.freeCw).grid = s.grid := rfl
@[simp] theorem State.freeCw_modCnt (s : State) : (s.freeCw).modCnt = s.modCnt := rfl
@[simp] theorem State.freeCw_fault (s : State) : (s.freeCw).fault = s.fault := rfl
@[simp] theorem State.freeCw_final (s : State) : (s.freeCw).final = s.final := rfl
@[simp] theorem State.freeCw_dcValid (s : State) : (s.freeCw).dcValid = s.dcValid := rfl
@[simp] theorem State.freeCw_testF (s : State) : (s.freeCw).testF = s.testF := rfl
@[simp] theorem State.freeCw_cause (s : State) : (s.freeCw).cause = s.cause := rfl
@[simp] theorem State.freeCw_finfo (s : State) : (s.freeCw).finfo = s.finfo := rfl
@[simp] theorem State.freeCw_fcmd (s : State) : (s.freeCw).fcmd = s.fcmd := rfl
@[simp] theorem State.freeCw_version (s : State) : (s.freeCw).version = s.version := rfl
@[simp] theorem State.freeCw_level (s : State) : (s.freeCw).level = s.level := rfl
@[simp] theorem State.freeCw_mask (s : State) : (s.freeCw).mask = s.mask := rfl
@[simp] theorem State.freeCw_phase (s : State) : (s.freeCw).phase = s.phase := rfl
@[simp] theorem State.freeCw_scoreN (s : State) : (s.freeCw).scoreN = s.scoreN := rfl
@[simp] theorem State.freeCw_scoreF (s : State) : (s.freeCw).scoreF = s.scoreF := rfl
@[simp] theorem State.freeCw_port (s : State) : (s.freeCw).port = s.port := rfl
@[simp] theorem State.freeCw_reply (s : State) : (s.freeCw).reply = s.reply := rfl
@[simp] theorem State.freeCw_freeIdx (s : State) : (s.freeCw).freeIdx = s.freeIdx := rfl

/-! ## `State.freeSegElements` -/

@[simp] theorem State.freeSegElements_x (s : State) : (s.freeSegElements).x = s.x := rfl
@[simp] theorem State.freeSegElements_p (s : State) : (s.freeSegElements).p = s.p := rfl
@[simp] theorem State.freeSegElements_stg (s : State) : (s.freeSegElements).stg = s.stg := rfl
@[simp] theorem State.freeSegElements_stgLen (s : State) : (s.freeSegElements).stgLen = s.stgLen := rfl
@[simp] theorem State.freeSegElements_txt (s : State) : (s.freeSegElements).txt = s.txt := rfl
@[simp] theorem State.freeSegElements_txtLen (s : State) : (s.freeSegElements).txtLen = s.txtLen := rfl
@[simp] theorem State.freeSegElements_seg (s : State) : (s.freeSegElements).seg = Memory.ofElements Config.segMax (Config.freeSeg s.freeIdx) := rfl
@[simp] theorem State.freeSegElements_segLen (s : State) : (s.freeSegElements).segLen = s.segLen := rfl
@[simp] theorem State.freeSegElements_bb (s : State) : (s.freeSegElements).bb = s.bb := rfl
@[simp] theorem State.freeSegElements_blk (s : State) : (s.freeSegElements).blk = s.blk := rfl
@[simp] theorem State.freeSegElements_cw (s : State) : (s.freeSegElements).cw = s.cw := rfl
@[simp] theorem State.freeSegElements_grid (s : State) : (s.freeSegElements).grid = s.grid := rfl
@[simp] theorem State.freeSegElements_modCnt (s : State) : (s.freeSegElements).modCnt = s.modCnt := rfl
@[simp] theorem State.freeSegElements_fault (s : State) : (s.freeSegElements).fault = s.fault := rfl
@[simp] theorem State.freeSegElements_final (s : State) : (s.freeSegElements).final = s.final := rfl
@[simp] theorem State.freeSegElements_dcValid (s : State) : (s.freeSegElements).dcValid = s.dcValid := rfl
@[simp] theorem State.freeSegElements_testF (s : State) : (s.freeSegElements).testF = s.testF := rfl
@[simp] theorem State.freeSegElements_cause (s : State) : (s.freeSegElements).cause = s.cause := rfl
@[simp] theorem State.freeSegElements_finfo (s : State) : (s.freeSegElements).finfo = s.finfo := rfl
@[simp] theorem State.freeSegElements_fcmd (s : State) : (s.freeSegElements).fcmd = s.fcmd := rfl
@[simp] theorem State.freeSegElements_version (s : State) : (s.freeSegElements).version = s.version := rfl
@[simp] theorem State.freeSegElements_level (s : State) : (s.freeSegElements).level = s.level := rfl
@[simp] theorem State.freeSegElements_mask (s : State) : (s.freeSegElements).mask = s.mask := rfl
@[simp] theorem State.freeSegElements_phase (s : State) : (s.freeSegElements).phase = s.phase := rfl
@[simp] theorem State.freeSegElements_scoreN (s : State) : (s.freeSegElements).scoreN = s.scoreN := rfl
@[simp] theorem State.freeSegElements_scoreF (s : State) : (s.freeSegElements).scoreF = s.scoreF := rfl
@[simp] theorem State.freeSegElements_port (s : State) : (s.freeSegElements).port = s.port := rfl
@[simp] theorem State.freeSegElements_reply (s : State) : (s.freeSegElements).reply = s.reply := rfl
@[simp] theorem State.freeSegElements_freeIdx (s : State) : (s.freeSegElements).freeIdx = s.freeIdx := rfl

/-! ## `State.freeSeg` -/

@[simp] theorem State.freeSeg_x (s : State) : (s.freeSeg).x = s.x := rfl
@[simp] theorem State.freeSeg_p (s : State) : (s.freeSeg).p = s.p := rfl
@[simp] theorem State.freeSeg_stg (s : State) : (s.freeSeg).stg = s.stg := rfl
@[simp] theorem State.freeSeg_stgLen (s : State) : (s.freeSeg).stgLen = s.stgLen := rfl
@[simp] theorem State.freeSeg_txt (s : State) : (s.freeSeg).txt = s.txt := rfl
@[simp] theorem State.freeSeg_txtLen (s : State) : (s.freeSeg).txtLen = s.txtLen := rfl
@[simp] theorem State.freeSeg_seg (s : State) : (s.freeSeg).seg = Memory.ofElements Config.segMax (Config.freeSeg s.freeIdx) := rfl
@[simp] theorem State.freeSeg_segLen (s : State) : (s.freeSeg).segLen = min (Config.freeSegLen s.freeIdx) Config.segMax := rfl
@[simp] theorem State.freeSeg_bb (s : State) : (s.freeSeg).bb = s.bb := rfl
@[simp] theorem State.freeSeg_blk (s : State) : (s.freeSeg).blk = s.blk := rfl
@[simp] theorem State.freeSeg_cw (s : State) : (s.freeSeg).cw = s.cw := rfl
@[simp] theorem State.freeSeg_grid (s : State) : (s.freeSeg).grid = s.grid := rfl
@[simp] theorem State.freeSeg_modCnt (s : State) : (s.freeSeg).modCnt = s.modCnt := rfl
@[simp] theorem State.freeSeg_fault (s : State) : (s.freeSeg).fault = s.fault := rfl
@[simp] theorem State.freeSeg_final (s : State) : (s.freeSeg).final = s.final := rfl
@[simp] theorem State.freeSeg_dcValid (s : State) : (s.freeSeg).dcValid = s.dcValid := rfl
@[simp] theorem State.freeSeg_testF (s : State) : (s.freeSeg).testF = s.testF := rfl
@[simp] theorem State.freeSeg_cause (s : State) : (s.freeSeg).cause = s.cause := rfl
@[simp] theorem State.freeSeg_finfo (s : State) : (s.freeSeg).finfo = s.finfo := rfl
@[simp] theorem State.freeSeg_fcmd (s : State) : (s.freeSeg).fcmd = s.fcmd := rfl
@[simp] theorem State.freeSeg_version (s : State) : (s.freeSeg).version = s.version := rfl
@[simp] theorem State.freeSeg_level (s : State) : (s.freeSeg).level = s.level := rfl
@[simp] theorem State.freeSeg_mask (s : State) : (s.freeSeg).mask = s.mask := rfl
@[simp] theorem State.freeSeg_phase (s : State) : (s.freeSeg).phase = s.phase := rfl
@[simp] theorem State.freeSeg_scoreN (s : State) : (s.freeSeg).scoreN = s.scoreN := rfl
@[simp] theorem State.freeSeg_scoreF (s : State) : (s.freeSeg).scoreF = s.scoreF := rfl
@[simp] theorem State.freeSeg_port (s : State) : (s.freeSeg).port = s.port := rfl
@[simp] theorem State.freeSeg_reply (s : State) : (s.freeSeg).reply = s.reply := rfl
@[simp] theorem State.freeSeg_freeIdx (s : State) : (s.freeSeg).freeIdx = s.freeIdx := rfl

/-! ## `State.nextEpoch` -/

@[simp] theorem State.nextEpoch_x (s : State) : (s.nextEpoch).x = s.x := rfl
@[simp] theorem State.nextEpoch_p (s : State) : (s.nextEpoch).p = s.p := rfl
@[simp] theorem State.nextEpoch_stg (s : State) : (s.nextEpoch).stg = s.stg := rfl
@[simp] theorem State.nextEpoch_stgLen (s : State) : (s.nextEpoch).stgLen = s.stgLen := rfl
@[simp] theorem State.nextEpoch_txt (s : State) : (s.nextEpoch).txt = s.txt := rfl
@[simp] theorem State.nextEpoch_txtLen (s : State) : (s.nextEpoch).txtLen = s.txtLen := rfl
@[simp] theorem State.nextEpoch_seg (s : State) : (s.nextEpoch).seg = s.seg := rfl
@[simp] theorem State.nextEpoch_segLen (s : State) : (s.nextEpoch).segLen = s.segLen := rfl
@[simp] theorem State.nextEpoch_bb (s : State) : (s.nextEpoch).bb = s.bb := rfl
@[simp] theorem State.nextEpoch_blk (s : State) : (s.nextEpoch).blk = s.blk := rfl
@[simp] theorem State.nextEpoch_cw (s : State) : (s.nextEpoch).cw = s.cw := rfl
@[simp] theorem State.nextEpoch_grid (s : State) : (s.nextEpoch).grid = s.grid := rfl
@[simp] theorem State.nextEpoch_modCnt (s : State) : (s.nextEpoch).modCnt = s.modCnt := rfl
@[simp] theorem State.nextEpoch_fault (s : State) : (s.nextEpoch).fault = s.fault := rfl
@[simp] theorem State.nextEpoch_final (s : State) : (s.nextEpoch).final = s.final := rfl
@[simp] theorem State.nextEpoch_dcValid (s : State) : (s.nextEpoch).dcValid = s.dcValid := rfl
@[simp] theorem State.nextEpoch_testF (s : State) : (s.nextEpoch).testF = s.testF := rfl
@[simp] theorem State.nextEpoch_cause (s : State) : (s.nextEpoch).cause = s.cause := rfl
@[simp] theorem State.nextEpoch_finfo (s : State) : (s.nextEpoch).finfo = s.finfo := rfl
@[simp] theorem State.nextEpoch_fcmd (s : State) : (s.nextEpoch).fcmd = s.fcmd := rfl
@[simp] theorem State.nextEpoch_version (s : State) : (s.nextEpoch).version = s.version := rfl
@[simp] theorem State.nextEpoch_level (s : State) : (s.nextEpoch).level = s.level := rfl
@[simp] theorem State.nextEpoch_mask (s : State) : (s.nextEpoch).mask = s.mask := rfl
@[simp] theorem State.nextEpoch_phase (s : State) : (s.nextEpoch).phase = s.phase := rfl
@[simp] theorem State.nextEpoch_scoreN (s : State) : (s.nextEpoch).scoreN = s.scoreN := rfl
@[simp] theorem State.nextEpoch_scoreF (s : State) : (s.nextEpoch).scoreF = s.scoreF := rfl
@[simp] theorem State.nextEpoch_port (s : State) : (s.nextEpoch).port = s.port := rfl
@[simp] theorem State.nextEpoch_reply (s : State) : (s.nextEpoch).reply = s.reply := rfl
@[simp] theorem State.nextEpoch_freeIdx (s : State) : (s.nextEpoch).freeIdx = s.freeIdx + 1 := rfl

/-! ## `State.answer` -/

@[simp] theorem State.answer_x (s : State) (r : Reply) : (s.answer r).x = s.x := rfl
@[simp] theorem State.answer_p (s : State) (r : Reply) : (s.answer r).p = s.p := rfl
@[simp] theorem State.answer_stg (s : State) (r : Reply) : (s.answer r).stg = s.stg := rfl
@[simp] theorem State.answer_stgLen (s : State) (r : Reply) : (s.answer r).stgLen = s.stgLen := rfl
@[simp] theorem State.answer_txt (s : State) (r : Reply) : (s.answer r).txt = s.txt := rfl
@[simp] theorem State.answer_txtLen (s : State) (r : Reply) : (s.answer r).txtLen = s.txtLen := rfl
@[simp] theorem State.answer_seg (s : State) (r : Reply) : (s.answer r).seg = s.seg := rfl
@[simp] theorem State.answer_segLen (s : State) (r : Reply) : (s.answer r).segLen = s.segLen := rfl
@[simp] theorem State.answer_bb (s : State) (r : Reply) : (s.answer r).bb = s.bb := rfl
@[simp] theorem State.answer_blk (s : State) (r : Reply) : (s.answer r).blk = s.blk := rfl
@[simp] theorem State.answer_cw (s : State) (r : Reply) : (s.answer r).cw = s.cw := rfl
@[simp] theorem State.answer_grid (s : State) (r : Reply) : (s.answer r).grid = s.grid := rfl
@[simp] theorem State.answer_modCnt (s : State) (r : Reply) : (s.answer r).modCnt = s.modCnt := rfl
@[simp] theorem State.answer_fault (s : State) (r : Reply) : (s.answer r).fault = s.fault := rfl
@[simp] theorem State.answer_final (s : State) (r : Reply) : (s.answer r).final = s.final := rfl
@[simp] theorem State.answer_dcValid (s : State) (r : Reply) : (s.answer r).dcValid = s.dcValid := rfl
@[simp] theorem State.answer_testF (s : State) (r : Reply) : (s.answer r).testF = s.testF := rfl
@[simp] theorem State.answer_cause (s : State) (r : Reply) : (s.answer r).cause = s.cause := rfl
@[simp] theorem State.answer_finfo (s : State) (r : Reply) : (s.answer r).finfo = s.finfo := rfl
@[simp] theorem State.answer_fcmd (s : State) (r : Reply) : (s.answer r).fcmd = s.fcmd := rfl
@[simp] theorem State.answer_version (s : State) (r : Reply) : (s.answer r).version = s.version := rfl
@[simp] theorem State.answer_level (s : State) (r : Reply) : (s.answer r).level = s.level := rfl
@[simp] theorem State.answer_mask (s : State) (r : Reply) : (s.answer r).mask = s.mask := rfl
@[simp] theorem State.answer_phase (s : State) (r : Reply) : (s.answer r).phase = s.phase := rfl
@[simp] theorem State.answer_scoreN (s : State) (r : Reply) : (s.answer r).scoreN = s.scoreN := rfl
@[simp] theorem State.answer_scoreF (s : State) (r : Reply) : (s.answer r).scoreF = s.scoreF := rfl
@[simp] theorem State.answer_port (s : State) (r : Reply) : (s.answer r).port = s.port := rfl
@[simp] theorem State.answer_reply (s : State) (r : Reply) : (s.answer r).reply = r := rfl
@[simp] theorem State.answer_freeIdx (s : State) (r : Reply) : (s.answer r).freeIdx = s.freeIdx := rfl

/-! ## `State.taken` -/

@[simp] theorem State.taken_x (s : State) (t : HostTxn) (rest : List HostTxn) : (s.taken t rest).x = s.x := rfl
@[simp] theorem State.taken_p (s : State) (t : HostTxn) (rest : List HostTxn) : (s.taken t rest).p = s.p := rfl
@[simp] theorem State.taken_stg (s : State) (t : HostTxn) (rest : List HostTxn) : (s.taken t rest).stg = s.stg := rfl
@[simp] theorem State.taken_stgLen (s : State) (t : HostTxn) (rest : List HostTxn) : (s.taken t rest).stgLen = s.stgLen := rfl
@[simp] theorem State.taken_txt (s : State) (t : HostTxn) (rest : List HostTxn) : (s.taken t rest).txt = s.txt := rfl
@[simp] theorem State.taken_txtLen (s : State) (t : HostTxn) (rest : List HostTxn) : (s.taken t rest).txtLen = s.txtLen := rfl
@[simp] theorem State.taken_seg (s : State) (t : HostTxn) (rest : List HostTxn) : (s.taken t rest).seg = s.seg := rfl
@[simp] theorem State.taken_segLen (s : State) (t : HostTxn) (rest : List HostTxn) : (s.taken t rest).segLen = s.segLen := rfl
@[simp] theorem State.taken_bb (s : State) (t : HostTxn) (rest : List HostTxn) : (s.taken t rest).bb = s.bb := rfl
@[simp] theorem State.taken_blk (s : State) (t : HostTxn) (rest : List HostTxn) : (s.taken t rest).blk = s.blk := rfl
@[simp] theorem State.taken_cw (s : State) (t : HostTxn) (rest : List HostTxn) : (s.taken t rest).cw = s.cw := rfl
@[simp] theorem State.taken_grid (s : State) (t : HostTxn) (rest : List HostTxn) : (s.taken t rest).grid = s.grid := rfl
@[simp] theorem State.taken_modCnt (s : State) (t : HostTxn) (rest : List HostTxn) : (s.taken t rest).modCnt = s.modCnt := rfl
@[simp] theorem State.taken_fault (s : State) (t : HostTxn) (rest : List HostTxn) : (s.taken t rest).fault = s.fault := rfl
@[simp] theorem State.taken_final (s : State) (t : HostTxn) (rest : List HostTxn) : (s.taken t rest).final = s.final := rfl
@[simp] theorem State.taken_dcValid (s : State) (t : HostTxn) (rest : List HostTxn) : (s.taken t rest).dcValid = s.dcValid := rfl
@[simp] theorem State.taken_testF (s : State) (t : HostTxn) (rest : List HostTxn) : (s.taken t rest).testF = s.testF := rfl
@[simp] theorem State.taken_cause (s : State) (t : HostTxn) (rest : List HostTxn) : (s.taken t rest).cause = s.cause := rfl
@[simp] theorem State.taken_finfo (s : State) (t : HostTxn) (rest : List HostTxn) : (s.taken t rest).finfo = s.finfo := rfl
@[simp] theorem State.taken_fcmd (s : State) (t : HostTxn) (rest : List HostTxn) : (s.taken t rest).fcmd = s.fcmd := rfl
@[simp] theorem State.taken_version (s : State) (t : HostTxn) (rest : List HostTxn) : (s.taken t rest).version = s.version := rfl
@[simp] theorem State.taken_level (s : State) (t : HostTxn) (rest : List HostTxn) : (s.taken t rest).level = s.level := rfl
@[simp] theorem State.taken_mask (s : State) (t : HostTxn) (rest : List HostTxn) : (s.taken t rest).mask = s.mask := rfl
@[simp] theorem State.taken_phase (s : State) (t : HostTxn) (rest : List HostTxn) : (s.taken t rest).phase = s.phase := rfl
@[simp] theorem State.taken_scoreN (s : State) (t : HostTxn) (rest : List HostTxn) : (s.taken t rest).scoreN = s.scoreN := rfl
@[simp] theorem State.taken_scoreF (s : State) (t : HostTxn) (rest : List HostTxn) : (s.taken t rest).scoreF = s.scoreF := rfl
@[simp] theorem State.taken_port (s : State) (t : HostTxn) (rest : List HostTxn) : (s.taken t rest).port = rest := rfl
@[simp] theorem State.taken_reply (s : State) (t : HostTxn) (rest : List HostTxn) : (s.taken t rest).reply = .none := rfl
@[simp] theorem State.taken_freeIdx (s : State) (t : HostTxn) (rest : List HostTxn) :
    (s.taken t rest).freeIdx = if t.isRead then s.freeIdx else s.freeIdx + 1 := rfl

end Sys2Proof.Machine
end

