-- ==== Sys2Proof/Laws/Ops.lean ====
section
/-! SUPPORT. The shared operations of the machine: what the end of a command can be, what fault entry leaves, the
stores of a polynomial, a control register and a grid cell. -/

namespace Sys2Proof.Machine

/-! ## The end of a command -/

@[simp] theorem complete_of_faulted {i : Instr} {o : Outputs} {s : State} {r : Except Stop State}
    (h : s.fault = true) : complete i o s r = s := by simp [complete, h]

@[simp] theorem complete_ok {i : Instr} {o : Outputs} {s t : State} (h : s.fault = false) :
    complete i o s (.ok t) = t := by simp [complete, h]

@[simp] theorem complete_error {i : Instr} {o : Outputs} {s : State} {e : Stop} (h : s.fault = false) :
    complete i o s (.error e) = faultEntry (encode i) e.cause e.info (o e.cause e.current) := by simp [complete, h]

/-- A raise in the state before the command, of a command whose outputs are kept. -/
theorem complete_raise_kept {i : Instr} {s : State} {c : Cause} {info : Int} (h : s.fault = false) :
    complete i Outputs.kept s (raise s c info) = faultEntry (encode i) c info s := by
  simp [raise, Outputs.kept, h]

/-- Everything the end of a command can be: refused, completed, or a fault taken. -/
theorem complete_cases (i : Instr) (o : Outputs) (s : State) (r : Except Stop State) :
    (s.fault = true ∧ complete i o s r = s) ∨
    (s.fault = false ∧ ∃ t, r = .ok t ∧ complete i o s r = t) ∨
    (s.fault = false ∧ ∃ e, r = .error e ∧
      complete i o s r = faultEntry (encode i) e.cause e.info (o e.cause e.current)) := by
  cases hf : s.fault
  · cases r <;> simp [hf]
  · simp [hf]

/-- Fault entry is the state the reference description writes out. -/
theorem faultEntry_eq_faulted (w : Word) (c : Cause) (info : Int) (s : State) :
    faultEntry w c info s = Reference.faulted w c info s := rfl

theorem liftRaise_ok {α : Type} {s : State} {a : α} : liftRaise s (.ok a : Except Raise α) = .ok a := rfl

theorem liftRaise_error {α : Type} {s : State} {e : Raise} :
    liftRaise s (.error e : Except Raise α) = raise s e.cause e.info := rfl

/-- A lifted fault is raised in the state it is lifted in. -/
theorem liftRaise_eq_error {α : Type} {s : State} {r : Except Raise α} {e : Stop} (h : liftRaise s r = .error e) :
    e.current = s ∧ r = .error ⟨e.cause, e.info⟩ := by
  cases r with
  | ok a => simp [liftRaise] at h
  | error r =>
    simp only [liftRaise, raise, Except.error.injEq] at h
    subst h
    exact ⟨rfl, rfl⟩

theorem liftRaise_eq_ok {α : Type} {s : State} {r : Except Raise α} {a : α} (h : liftRaise s r = .ok a) :
    r = .ok a := by
  cases r with
  | ok b => simpa [liftRaise] using h
  | error r => simp [liftRaise, raise] at h

/-- A sequence of two parts of a command completes when both do. -/
theorem bind_eq_ok {ε α β : Type} {r : Except ε α} {f : α → Except ε β} {b : β} (h : (r >>= f) = .ok b) :
    ∃ a, r = .ok a ∧ f a = .ok b := by
  cases r with
  | ok a => exact ⟨a, rfl, h⟩
  | error e => cases h

/-- A sequence of two parts of a command faults in the first or in the second. -/
theorem bind_eq_error {ε α β : Type} {r : Except ε α} {f : α → Except ε β} {e : ε} (h : (r >>= f) = .error e) :
    r = .error e ∨ ∃ a, r = .ok a ∧ f a = .error e := by
  cases r with
  | ok a => exact .inr ⟨a, rfl, h⟩
  | error e' => exact .inl (by injection h with h; rw [h])

/-! ## Stores -/

theorem storePoly_cases (pd : PReg) (c : Poly) (s : State) :
    (c.length ≤ Config.polyMax ∧ storePoly pd c s = .ok (s.writeP pd c)) ∨
    (Config.polyMax < c.length ∧ storePoly pd c s = raise s .bufferLimit c.length) := by
  unfold storePoly
  split
  · exact .inr ⟨‹_›, rfl⟩
  · exact .inl ⟨by omega, rfl⟩

theorem maskOperand_legal {mask : BitVec 4} {s : State} (h : mask.toNat < 8) :
    maskOperand mask s = .ok ⟨mask.toNat, h⟩ := by simp [maskOperand, maskPattern?, h]

theorem maskOperand_illegal {mask : BitVec 4} {s : State} (h : 8 ≤ mask.toNat) :
    maskOperand mask s = raise s .maskPattern mask.toNat := by
  simp [maskOperand, maskPattern?, show ¬ mask.toNat < 8 by omega]

/-- Everything a write of a control register can do (rules R46, R53, R304). -/
theorem csrWrite_cases (s : State) (n : Nat) (w : Word) :
    (n = 4 ∧ s.csrWrite n w = .written (s.writeVersion w)) ∨
    (n = 5 ∧ s.csrWrite n w = .written (s.writeLevel w)) ∨
    (n = 12 ∧ 0 ≤ w.toInt ∧ w.toInt ≤ Config.txtMax ∧
      s.csrWrite n w = .written { s with txtLen := w.toInt.toNat }) ∨
    (n = 13 ∧ 0 ≤ w.toInt ∧ w.toInt ≤ Config.segMax ∧
      s.csrWrite n w = .written { s with segLen := w.toInt.toNat, dcValid := false }) ∨
    (n = 15 ∧ 0 ≤ w.toInt ∧ w.toInt ≤ Config.polyMax ∧
      s.csrWrite n w = .written { s with stgLen := w.toInt.toNat }) ∨
    ((n = 12 ∧ (w.toInt < 0 ∨ Config.txtMax < w.toInt) ∨ n = 13 ∧ (w.toInt < 0 ∨ Config.segMax < w.toInt) ∨
      n = 15 ∧ (w.toInt < 0 ∨ Config.polyMax < w.toInt)) ∧ s.csrWrite n w = .outOfRange) ∨
    (n ≠ 4 ∧ n ≠ 5 ∧ n ≠ 12 ∧ n ≠ 13 ∧ n ≠ 15 ∧ s.csrWrite n w = .notWritable) := by
  unfold State.csrWrite
  split
  · simp
  · simp
  · unfold lengthWrite
    split <;> simp [Config.txtMax, Config.segMax, Config.polyMax] at * <;> omega
  · unfold lengthWrite
    split <;> simp [Config.txtMax, Config.segMax, Config.polyMax] at * <;> omega
  · unfold lengthWrite
    split <;> simp [Config.txtMax, Config.segMax, Config.polyMax] at * <;> omega
  · simp_all

/-! ## The grid -/

/-- A grid is a square of side `mc`. -/
def Grid.square (g : Grid) (mc : Nat) : Prop := g.length = mc ∧ ∀ row ∈ g, row.length = mc

theorem Grid.square_blank (mc : Nat) : (Grid.blank mc).square mc := by
  refine ⟨by simp [Grid.blank], fun row h => ?_⟩
  simp only [Grid.blank, List.mem_replicate] at h
  simp [h.2]

theorem Grid.cell_blank (mc r c : Nat) : (Grid.blank mc).cell r c = .unset := by
  simp only [Grid.cell, Grid.blank, List.getD_eq_getElem?_getD, List.getElem?_replicate]
  split
  · simp only [Option.getD_some, List.getElem?_replicate]
    split <;> rfl
  · rfl

/-- A cell after a write: the written one holds the colour, every other one what it held. -/
theorem Grid.cell_put {g : Grid} {mc : Nat} (hg : g.square mc) (row col r c : Nat) (dark : Bool) :
    (g.put row col dark).cell r c =
      if r = row ∧ c = col ∧ row < mc ∧ col < mc then GridCell.ofBool dark else g.cell r c := by
  obtain ⟨hl, hrow⟩ := hg
  unfold Grid.put Grid.cell
  rw [if_neg (by omega)]
  simp only [Int.toNat_natCast, List.getD_eq_getElem?_getD, List.getElem?_modify]
  by_cases hr : row = r
  · subst hr
    by_cases hlt : row < g.length
    · have hlen : (g[row]).length = mc := hrow _ (List.getElem_mem hlt)
      rw [List.getElem?_eq_getElem hlt]
      simp only [if_true, Option.map_eq_map, Option.map_some, Option.getD_some, List.getElem?_set, hlen]
      by_cases hc : col = c
      · subst hc
        by_cases hcol : col < mc
        · simp [hcol, hl ▸ hlt]
        · simp [hcol, hlen]
      · simp [hc, Ne.symm hc]
    · simp [List.getElem?_eq_none (Nat.le_of_not_lt hlt), show ¬ row < mc by omega]
  · simp [hr, Ne.symm hr]

/-- A write keeps the square. -/
theorem Grid.square_put {g : Grid} {mc : Nat} (hg : g.square mc) (row col : Int) (dark : Bool) :
    (g.put row col dark).square mc := by
  obtain ⟨hl, hrow⟩ := hg
  unfold Grid.put
  split
  · exact ⟨hl, hrow⟩
  · refine ⟨by simpa using hl, fun cells h => ?_⟩
    obtain ⟨k, hk, rfl⟩ := List.mem_iff_getElem.mp h
    rw [List.getElem_modify]
    split
    · simpa using hrow _ (List.getElem_mem _)
    · exact hrow _ (List.getElem_mem _)

/-- A write outside the grid does nothing. -/
theorem Grid.put_negative {g : Grid} {row col : Int} {dark : Bool} (h : row < 0 ∨ col < 0) :
    g.put row col dark = g := by rw [Grid.put, if_pos h]

theorem GridCell.ofBool_ne_unset (dark : Bool) : GridCell.ofBool dark ≠ .unset := by cases dark <;> decide

/-- A cell that a write has passed over or set is not `Unset` again. -/
theorem Grid.put_keeps_set {g : Grid} {mc : Nat} (hg : g.square mc) {row col r c : Nat} {dark : Bool}
    (h : g.cell r c ≠ .unset) : (g.put row col dark).cell r c ≠ .unset := by
  rw [Grid.cell_put hg]
  split
  · exact GridCell.ofBool_ne_unset _
  · exact h

end Sys2Proof.Machine
end

