-- ==== Sys2Proof/Laws/BitBuffer.lean ====
section
/-! SUPPORT. The bit buffer (rules R38, R140 to R143): appending bits to a well-formed buffer, in the terms of the
sequence of its bits. -/

namespace Sys2Proof.Machine

open Sys2Proof.Reference

theorem BitBuffer.wellFormed_empty : BitBuffer.empty.wellFormed := by
  refine ⟨rfl, fun k hk => absurd hk (by simp [BitBuffer.empty])⟩

@[simp] theorem BitBuffer.push_len (b : BitBuffer) (bit : Bool) : (b.push bit).len = b.len + 1 := rfl

@[simp] theorem bits_length (b : BitBuffer) : (bits b).length = b.len := by simp [bits]

/-- The mask of one bit position of a byte, bit by bit. -/
theorem getLsbD_bitMask (k j : Nat) (hk : k < 8) : ((0x80 : Byte) >>> k).getLsbD j = decide (j = 7 - k) := by
  have h : ∀ k : Fin 8, ∀ j : Fin 8, ((0x80 : Byte) >>> k.val).getLsbD j.val = decide (j.val = 7 - k.val) := by
    decide
  by_cases hj : j < 8
  · exact h ⟨k, hk⟩ ⟨j, hj⟩
  · rw [BitVec.getLsbD_of_ge _ _ (by omega)]
    simp
    omega

/-- The bits of a buffer after one has been appended. -/
theorem BitBuffer.get_push {b : BitBuffer} (hb : b.wellFormed) (bit : Bool) (k : Nat) :
    (b.push bit).get k = if k = b.len then bit else b.get k := by
  obtain ⟨hlen, hzero⟩ := hb
  have hgrow : ((b.len + 7) / 8 ≤ b.len / 8) ↔ b.len % 8 = 0 := by omega
  -- the bytes once a zero byte has been appended where needed
  set bytes := if (b.len + 7) / 8 ≤ b.len / 8 then b.bytes ++ [0] else b.bytes with hbytes
  have hin : b.len / 8 < bytes.length := by
    rw [hbytes]
    split <;> simp [hlen] <;> omega
  have hget : ∀ k, (bytes.getD (k / 8) 0).getLsbD (7 - k % 8) = b.get k := by
    intro k
    rw [hbytes, BitBuffer.get]
    split
    · rw [List.getD_eq_getElem?_getD, List.getD_eq_getElem?_getD, List.getElem?_append]
      split
      · rfl
      · rw [List.getElem?_eq_none (l := b.bytes) (by omega)]
        rcases h : k / 8 - b.bytes.length with _ | n <;> simp
    · rfl
  have hlast : b.get b.len = false := by
    by_cases h : b.len % 8 = 0
    · rw [BitBuffer.get, List.getD_eq_getElem?_getD, List.getElem?_eq_none (by omega)]
      simp
    · exact hzero _ (by omega) le_rfl
  have hpush : b.push bit =
      ⟨if bit then bytes.modify (b.len / 8) (· ||| ((0x80 : Byte) >>> (b.len % 8))) else bytes, b.len + 1⟩ := rfl
  rw [hpush, BitBuffer.get]
  cases bit
  · simp only [Bool.false_eq_true, if_false, hget]
    split
    · subst k
      exact hlast
    · rfl
  · simp only [if_true, List.getD_eq_getElem?_getD, List.getElem?_modify]
    by_cases hk : b.len / 8 = k / 8
    · simp only [if_pos hk]
      rw [← hk, List.getElem?_eq_getElem hin]
      have h0 := hget k
      rw [← hk, List.getD_eq_getElem?_getD, List.getElem?_eq_getElem hin] at h0
      simp only [Option.map_eq_map, Option.map_some, Option.getD_some, BitVec.getLsbD_or] at h0 ⊢
      rw [h0, getLsbD_bitMask _ _ (Nat.mod_lt _ (by omega))]
      by_cases hkk : k = b.len
      · subst hkk
        simp
      · rw [if_neg hkk]
        have : ¬ 7 - k % 8 = 7 - b.len % 8 := by omega
        simp [this]
    · simp only [if_neg hk]
      rw [if_neg (by rintro rfl; exact hk rfl)]
      have := hget k
      rw [List.getD_eq_getElem?_getD] at this
      simpa using this

/-- Appending a bit keeps the buffer well formed. -/
theorem BitBuffer.wellFormed_push {b : BitBuffer} (hb : b.wellFormed) (bit : Bool) : (b.push bit).wellFormed := by
  have hbytes : (b.push bit).bytes.length = (b.len + 1 + 7) / 8 := by
    obtain ⟨hlen, -⟩ := hb
    unfold BitBuffer.push
    dsimp only
    by_cases h : (b.len + 7) / 8 ≤ b.len / 8 <;> cases bit <;> simp [h, hlen] <;> omega
  refine ⟨hbytes, fun k hk hle => ?_⟩
  rw [BitBuffer.get_push hb]
  rw [BitBuffer.push_len] at hle
  rw [if_neg (by omega)]
  obtain ⟨hlen, hzero⟩ := hb
  by_cases h : k < 8 * b.bytes.length
  · exact hzero k h (by omega)
  · rw [BitBuffer.get, List.getD_eq_getElem?_getD, List.getElem?_eq_none (by omega)]
    simp

/-- The bits after one has been appended. -/
theorem bits_push {b : BitBuffer} (hb : b.wellFormed) (bit : Bool) : bits (b.push bit) = bits b ++ [bit] := by
  unfold bits
  rw [BitBuffer.push_len, List.range_succ, List.map_append, List.map_singleton, BitBuffer.get_push hb, if_pos rfl]
  congr 1
  refine List.map_congr_left fun k hk => ?_
  rw [BitBuffer.get_push hb, if_neg (by simpa using (List.mem_range.mp hk).ne)]

/-- Appending a sequence of bits without a bound. -/
def BitBuffer.pushAll (b : BitBuffer) (l : List Bool) : BitBuffer := l.foldl BitBuffer.push b

theorem BitBuffer.pushAll_spec {b : BitBuffer} (hb : b.wellFormed) (l : List Bool) :
    (b.pushAll l).wellFormed ∧ (b.pushAll l).len = b.len + l.length ∧ bits (b.pushAll l) = bits b ++ l := by
  induction l generalizing b with
  | nil => exact ⟨hb, rfl, by simp [BitBuffer.pushAll]⟩
  | cons bit l ih =>
    obtain ⟨h1, h2, h3⟩ := ih (BitBuffer.wellFormed_push hb bit)
    refine ⟨h1, ?_, ?_⟩
    · rw [show b.pushAll (bit :: l) = (b.push bit).pushAll l from rfl, h2, BitBuffer.push_len, List.length_cons]
      omega
    · rw [show b.pushAll (bit :: l) = (b.push bit).pushAll l from rfl, h3, bits_push hb]
      simp

theorem BitBuffer.pushAll_len (b : BitBuffer) (l : List Bool) : (b.pushAll l).len = b.len + l.length := by
  induction l generalizing b with
  | nil => rfl
  | cons bit l ih =>
    rw [show b.pushAll (bit :: l) = (b.push bit).pushAll l from rfl, ih, BitBuffer.push_len, List.length_cons]
    omega

theorem BitBuffer.pushAll_append (b : BitBuffer) (l l' : List Bool) :
    b.pushAll (l ++ l') = (b.pushAll l).pushAll l' := by simp [BitBuffer.pushAll]

/-- A well-formed buffer is its bits. -/
theorem BitBuffer.ext_bits {b b' : BitBuffer} (hb : b.wellFormed) (hb' : b'.wellFormed) (h : bits b = bits b') :
    b = b' := by
  have hlen : b.len = b'.len := by simpa using congrArg List.length h
  have hbyteLen : b.bytes.length = b'.bytes.length := by rw [hb.1, hb'.1, hlen]
  have hget : ∀ k < 8 * b.bytes.length, b.get k = b'.get k := by
    intro k hk
    by_cases hkl : k < b.len
    · have := congrArg (fun l => l[k]?) h
      simpa [bits, List.getElem?_range, hkl, hlen ▸ hkl] using this
    · rw [hb.2 k hk (by omega), hb'.2 k (by omega) (by omega)]
  have hbytes : b.bytes = b'.bytes := by
    refine List.ext_getElem hbyteLen fun i hi hi' => ?_
    refine BitVec.eq_of_getLsbD_eq fun j hj => ?_
    have := hget (8 * i + (7 - j)) (by omega)
    simpa [BitBuffer.get, show (8 * i + (7 - j)) / 8 = i by omega, show (8 * i + (7 - j)) % 8 = 7 - j by omega, show 7 - (7 - j) = j by omega,
      List.getD_eq_getElem?_getD, List.getElem?_eq_getElem hi, List.getElem?_eq_getElem hi'] using this
  cases b
  cases b'
  simp_all

/-! ## The bounded operations -/

/-- Below the capacity a bit is appended; at the capacity it is refused. -/
theorem putBit_cases (b : BitBuffer) (bit : Bool) :
    ((b.len + 1 ≤ 8 * Config.bbMaxBytes ∨ b.len % 8 ≠ 0) ∧ putBit b bit = .ok (b.push bit)) ∨
    (8 * Config.bbMaxBytes ≤ b.len ∧ b.len % 8 = 0 ∧ putBit b bit = .error ⟨.bufferLimit, b.len⟩) := by
  unfold putBit
  split
  · exact .inr ⟨by omega, by omega, rfl⟩
  · exact .inl ⟨by omega, rfl⟩

/-- Bits that fit are appended. -/
theorem putBits_ok {b : BitBuffer} {l : List Bool} (h : b.len + l.length ≤ 8 * Config.bbMaxBytes) :
    putBits b l = .ok (b.pushAll l) := by
  induction l generalizing b with
  | nil => rfl
  | cons bit l ih =>
    simp only [List.length_cons] at h
    rcases putBit_cases b bit with ⟨-, hp⟩ | ⟨h1, -, -⟩
    · rw [putBits, hp]
      exact ih (by rw [BitBuffer.push_len]; omega)
    · omega

/-- Whatever bits are appended, the result is the buffer with them. -/
theorem putBits_eq_ok {b b' : BitBuffer} {l : List Bool} (h : putBits b l = .ok b') : b' = b.pushAll l := by
  induction l generalizing b with
  | nil => simpa [putBits, BitBuffer.pushAll, eq_comm] using h
  | cons bit l ih =>
    rw [putBits] at h
    obtain ⟨a, ha, h⟩ := bind_eq_ok h
    rcases putBit_cases b bit with ⟨-, hp⟩ | ⟨-, -, hp⟩
    · rw [hp] at ha
      cases ha
      exact ih h
    · rw [hp] at ha
      cases ha

@[simp] theorem valueBits_length (value n : Nat) : (valueBits value n).length = n := by simp [valueBits]

/-- The bits `put` appends, by division (rule R142). -/
theorem valueBits_eq_msbBits (value n : Nat) : valueBits value n = msbBits value n := by
  unfold valueBits msbBits
  refine List.map_congr_left fun i _ => ?_
  rw [Nat.testBit_eq_decide_div_mod_eq, show n - i - 1 = n - 1 - i by omega]
  rfl

theorem put_ok {b : BitBuffer} {value n : Nat} (h : b.len + n ≤ 8 * Config.bbMaxBytes) :
    put b value n = .ok (b.pushAll (msbBits value n)) := by
  rw [← valueBits_eq_msbBits]
  exact putBits_ok (by simpa using h)

theorem put_eq_ok {b b' : BitBuffer} {value n : Nat} (h : put b value n = .ok b') :
    b' = b.pushAll (msbBits value n) := by
  rw [← valueBits_eq_msbBits]
  exact putBits_eq_ok h

@[simp] theorem msbBits_length (value n : Nat) : (msbBits value n).length = n := by simp [msbBits]

@[simp] theorem byteBits_length (l : List Byte) : (byteBits l).length = 8 * l.length := by
  simp [byteBits, List.length_flatMap, Nat.mul_comm]

theorem byteBits_cons (v : Byte) (l : List Byte) : byteBits (v :: l) = msbBits v.toNat 8 ++ byteBits l := by
  simp [byteBits]

/-- Bytes that fit are appended, 8 bits each. -/
theorem putBytes_ok {b : BitBuffer} {l : List Byte} (h : b.len + 8 * l.length ≤ 8 * Config.bbMaxBytes) :
    putBytes b l = .ok (b.pushAll (byteBits l)) := by
  induction l generalizing b with
  | nil => rfl
  | cons v l ih =>
    simp only [List.length_cons] at h
    rw [putBytes, put_ok (by omega), byteBits_cons, BitBuffer.pushAll_append]
    exact ih (by rw [BitBuffer.pushAll_len, msbBits_length]; omega)

theorem putBytes_eq_ok {b b' : BitBuffer} {l : List Byte} (h : putBytes b l = .ok b') :
    b' = b.pushAll (byteBits l) := by
  induction l generalizing b with
  | nil => simpa [putBytes, BitBuffer.pushAll, byteBits, eq_comm] using h
  | cons v l ih =>
    rw [putBytes] at h
    obtain ⟨a, ha, h⟩ := bind_eq_ok h
    rw [byteBits_cons, BitBuffer.pushAll_append, ← put_eq_ok ha]
    exact ih h

theorem ofBits_eq_pushAll (l : List Bool) : BitBuffer.ofBits l = BitBuffer.empty.pushAll l := rfl

end Sys2Proof.Machine
end

