-- ==== Sys2Proof/Laws/Exec.lean ====
section
/-! SUPPORT. What a command and a step can do, said once: every command but `RESET` is the end (`complete`) of its
rule (`bodyOf`), and a step is the host's wait, a command, an illegal word, or a host access. -/

namespace Sys2Proof.Machine

/-- The rule of a command other than `RESET`, before its end. -/
def bodyOf (i : Instr) (s : State) : Except Stop State :=
  match i with
  | .nop => .ok s
  | .set ra imm16 => .ok (s.writeX ra (sext16 imm16))
  | .reset => .ok s
  | .csrr ra csr => bodyCsrr ra csr s
  | .csrw csr ra => bodyCsrw csr ra s
  | .gfLog rd ra => bodyGfLog rd ra s
  | .gfExp rd ra => .ok (s.writeX rd (gexp (s.readX ra)).toNat)
  | .polyNew pd shift => storePoly pd (poly (s.stg.readSeq s.stgLen) (zext8 shift)) s
  | .polyMul pd pa pb => bodyPolyMul pd pa pb s
  | .polyMod pd pa pb => bodyPolyMod pd pa pb s
  | .polyLen rd pa => .ok (s.writeX rd (s.readP pa).length)
  | .polyGet rd pa rb => bodyPolyGet rd pa rb s
  | .bbClr => bodyBbClr s
  | .bbPut ra rb => bodyBbPut ra rb s
  | .bbPutbit ra => bodyBbPutbit ra s
  | .bbGet rd ra => bodyBbGet rd ra s
  | .segEnc => bodySegEnc s
  | .segLen rd => .ok (s.writeX rd s.segLen)
  | .segWrite => bodySegWrite s
  | .utf8Len rd => .ok (s.writeX rd (utf8Length s.text))
  | .dataSeg => bodyDataSeg rom s
  | .dataFin => bodyDataFin rom s
  | .verSel rd ra => bodyVerSel rom rd ra s
  | .rsBlocks => bodyRsBlocks rom s
  | .rsGen pd ecCount => bodyRsGen pd ecCount s
  | .rsEnc => bodyRsEnc rom s
  | .bchFmt rd ra => bodyBchFmt rom rd ra s
  | .bchVer rd ra => bodyBchVer rom rd ra s
  | .bchDigit rd ra => bodyBchDigit rd ra s
  | .maskTst rd ra rb rc => bodyMaskTst rd ra rb rc s
  | .score => bodyScore s
  | .gridInit => bodyGridInit s
  | .gridStruct test mask => bodyGridStruct rom test mask s
  | .gridMap mask => bodyGridMap mask s
  | .gridFin => bodyGridFin s
  | .makeimpl test mask => bodyMakeimpl rom test mask s
  | .make => bodyMake rom s
  | .qCount rd => .ok (s.writeX rd s.modCnt)
  | .qDark rd ra rb => bodyQDark rd ra rb s

/-- What a command's fault leaves of the buffers it writes. -/
def outputsOf : Instr → Outputs
  | .dataSeg => Outputs.bbFreeUnlessLimit
  | .dataFin => Outputs.bbFree
  | .rsEnc => Outputs.cwFree
  | .makeimpl _ _ => Outputs.bbCwFree
  | .make => Outputs.segBbCwFree
  | _ => Outputs.kept

/-- Every command but `RESET` is the end of its rule. -/
theorem exec_eq (i : Instr) (s : State) (h : i ≠ .reset) :
    exec i s = .next (complete i (outputsOf i) s (bodyOf i s)) := by
  cases i <;> first | rfl | exact absurd rfl h

theorem exec_reset_eq (s : State) : exec .reset s = .next s.clear := rfl

/-- Everything a command can do. -/
theorem exec_cases {i : Instr} {s t : State} (h : exec i s = .next t) :
    (i = .reset ∧ t = s.clear) ∨ (i ≠ .reset ∧ s.fault = true ∧ t = s) ∨
    (i ≠ .reset ∧ s.fault = false ∧ bodyOf i s = .ok t) ∨
    (i ≠ .reset ∧ s.fault = false ∧ ∃ e, bodyOf i s = .error e ∧
      t = faultEntry (encode i) e.cause e.info (outputsOf i e.cause e.current)) := by
  by_cases hi : i = .reset
  · subst hi
    exact .inl ⟨rfl, (Host.Outcome.next.inj h).symm⟩
  · rw [exec_eq i s hi] at h
    obtain rfl := Host.Outcome.next.inj h
    rcases complete_cases i (outputsOf i) s (bodyOf i s) with ⟨hf, hc⟩ | ⟨hf, u, hb, hc⟩ | ⟨hf, e, hb, hc⟩
    · exact .inr (.inl ⟨hi, hf, hc⟩)
    · exact .inr (.inr (.inl ⟨hi, hf, by rw [hc, hb]⟩))
    · exact .inr (.inr (.inr ⟨hi, hf, e, hb, hc⟩))

/-- A command whose rule completes. -/
theorem exec_of_ok {i : Instr} {s t : State} (hi : i ≠ .reset) (hf : s.fault = false) (hb : bodyOf i s = .ok t) :
    exec i s = .next t := by rw [exec_eq i s hi, hb, complete_ok hf]

/-- A command whose rule raises. -/
theorem exec_of_error {i : Instr} {s : State} {e : Stop} (hi : i ≠ .reset) (hf : s.fault = false)
    (hb : bodyOf i s = .error e) :
    exec i s = .next (faultEntry (encode i) e.cause e.info (outputsOf i e.cause e.current)) := by
  rw [exec_eq i s hi, hb, complete_error hf]

/-- Every transaction but a command's issue, as what it does to the state. -/
def hostAccess : HostTxn → State → State
  | .issue _, s => s
  | .read sp index, s => s.hostRead sp index
  | .writeX index v, s => s.hostWriteX index v
  | .writeCsr index v, s => s.hostWriteCsr index v
  | .writeStg index v, s => s.hostWriteStg index v
  | .writeTxt index v, s => s.hostWriteTxt index v
  | .writeSeg index v, s => s.hostWriteSeg index v
  | .writeReadOnly _ _ _, s => s
  | .hardwareReset, s => s.hardwareReset

/-- Everything a step can do. -/
theorem step_cases {s t : State} (h : step s = .next t) :
    (s.port = [] ∧ t = s) ∨
    (∃ w rest, s.port = .issue w :: rest ∧
      ((∃ i, decode w = .ok i ∧ exec i (s.taken (.issue w) rest) = .next t) ∨
        (∃ e, decode w = .error e ∧ t = illegalWord w (s.taken (.issue w) rest)))) ∨
    (∃ txn rest, s.port = txn :: rest ∧ (∀ w, txn ≠ .issue w) ∧ t = hostAccess txn (s.taken txn rest)) := by
  unfold step at h
  split at h
  · exact .inl ⟨‹_›, (Host.Outcome.next.inj h).symm⟩
  · rename_i txn rest hp
    cases txn with
    | issue w =>
      refine .inr (.inl ⟨w, rest, hp, ?_⟩)
      simp only [perform, issueWord] at h
      split at h
      · exact .inl ⟨_, ‹_›, h⟩
      · exact .inr ⟨_, ‹_›, (Host.Outcome.next.inj h).symm⟩
    | _ => exact .inr (.inr ⟨_, rest, hp, (fun w hw => by cases hw), (Host.Outcome.next.inj h).symm⟩)

/-- An illegal word is refused or raises its fault (rules R86, R92). -/
theorem illegalWord_cases (w : Word) (s : State) :
    (s.fault = true ∧ illegalWord w s = s) ∨
    (s.fault = false ∧ illegalWord w s = faultEntry w .illegalCommand w.toNat s) := by
  unfold illegalWord
  cases hf : s.fault <;> simp

end Sys2Proof.Machine
end

