-- ==== Sys2Proof/Laws/Memory.lean ====
section
/-! SUPPORT. The element memories (Machine/Ops.lean): what a read finds after a write, and that every operation keeps
the canonical form and the capacity (rule R60). -/

namespace Sys2Proof.Machine

variable {w : Nat}

/-- Every index of the memory is at or above a bound: what the canonical form says of a tail. -/
def Memory.above (lo : Nat) (m : Memory w) : Prop := ∀ c ∈ m, lo ≤ c.1

theorem Memory.wf_cons_iff (i : Nat) (v : BitVec w) (m : Memory w) :
    Memory.wf ((i, v) :: m) = true ↔ v ≠ unlisted w ∧ m.above (i + 1) ∧ m.wf = true := by
  induction m generalizing i v with
  | nil => simp [Memory.wf, Memory.above]
  | cons c m ih =>
    obtain ⟨j, u⟩ := c
    simp only [Memory.wf, Bool.and_eq_true, bne_iff_ne, ne_eq, decide_eq_true_eq, Memory.above, List.mem_cons,
      forall_eq_or_imp]
    constructor
    · rintro ⟨⟨hv, hij⟩, hw⟩
      refine ⟨hv, ⟨hij, fun c hc => ?_⟩, hw⟩
      have := ((ih j u).mp hw).2.1 c hc
      omega
    · rintro ⟨hv, ⟨hij, -⟩, hw⟩
      exact ⟨⟨hv, hij⟩, hw⟩

theorem Memory.wf_nil : Memory.wf ([] : Memory w) = true := rfl

theorem Memory.read_of_above {m : Memory w} {i lo : Nat} (h : m.above lo) (hi : i < lo) :
    m.read i = unlisted w := by
  induction m with
  | nil => rfl
  | cons c m ih =>
    obtain ⟨j, u⟩ := c
    have hj : lo ≤ j := h (j, u) (by simp)
    rw [Memory.read, if_neg (by omega)]
    exact ih fun c hc => h c (by simp [hc])

theorem Memory.above_mono {m : Memory w} {lo lo' : Nat} (h : m.above lo) (hl : lo' ≤ lo) : m.above lo' :=
  fun c hc => le_trans hl (h c hc)

theorem Memory.above_cons {m : Memory w} {lo i : Nat} {v : BitVec w} (h : m.above lo) (hi : lo ≤ i) :
    (Memory.cons i v m).above lo := by
  unfold Memory.cons
  split
  · exact h
  · intro c hc
    rcases List.mem_cons.mp hc with rfl | hc
    · exact hi
    · exact h c hc

theorem Memory.wf_cons {m : Memory w} {i : Nat} {v : BitVec w} (h : m.above (i + 1)) (hm : m.wf = true) :
    (Memory.cons i v m).wf = true := by
  unfold Memory.cons
  split
  · exact hm
  · exact (Memory.wf_cons_iff i v m).mpr ⟨‹_›, h, hm⟩

theorem Memory.read_cons {m : Memory w} {i k : Nat} {v : BitVec w} (h : m.above (i + 1)) :
    (Memory.cons i v m).read k = if i = k then v else m.read k := by
  unfold Memory.cons
  split
  · split
    · subst k
      rw [Memory.read_of_above h (by omega)]
      exact Eq.symm ‹_›
    · rfl
  · rw [Memory.read]

theorem Memory.above_write {m : Memory w} {lo i : Nat} {v : BitVec w} (h : m.above lo) (hi : lo ≤ i) :
    (m.write i v).above lo := by
  induction m with
  | nil => exact Memory.above_cons h hi
  | cons c m ih =>
    obtain ⟨j, u⟩ := c
    have ht : Memory.above lo m := fun c hc => h c (by simp [hc])
    rw [Memory.write]
    split
    · exact Memory.above_cons h hi
    · split
      · exact Memory.above_cons ht hi
      · intro c hc
        rcases List.mem_cons.mp hc with rfl | hc
        · exact h (j, u) (by simp)
        · exact ih ht c hc

/-- A write keeps the canonical form. -/
theorem Memory.write_wf {m : Memory w} {i : Nat} {v : BitVec w} (hm : m.wf = true) : (m.write i v).wf = true := by
  induction m with
  | nil => exact Memory.wf_cons (by simp [Memory.above]) rfl
  | cons c m ih =>
    obtain ⟨j, u⟩ := c
    obtain ⟨hu, ha, hw⟩ := (Memory.wf_cons_iff j u m).mp hm
    rw [Memory.write]
    split
    · refine Memory.wf_cons (fun c hc => ?_) hm
      rcases List.mem_cons.mp hc with rfl | hc
      · exact ‹i < j›
      · have := ha c hc
        omega
    · split
      · subst j
        exact Memory.wf_cons ha hw
      · exact (Memory.wf_cons_iff j u _).mpr ⟨hu, Memory.above_write ha (by omega), ih hw⟩

/-- A read after a write. -/
theorem Memory.read_write {m : Memory w} {i k : Nat} {v : BitVec w} (hm : m.wf = true) :
    (m.write i v).read k = if k = i then v else m.read k := by
  simp only [eq_comm (a := k)]
  induction m with
  | nil => exact Memory.read_cons (by simp [Memory.above])
  | cons c m ih =>
    obtain ⟨j, u⟩ := c
    obtain ⟨hu, ha, hw⟩ := (Memory.wf_cons_iff j u m).mp hm
    rw [Memory.write]
    split
    · refine Memory.read_cons fun c hc => ?_
      rcases List.mem_cons.mp hc with rfl | hc
      · exact ‹i < j›
      · have := ha c hc
        omega
    · split
      · subst j
        rw [Memory.read_cons ha, Memory.read]
        split <;> rfl
      · simp only [Memory.read, ih hw]
        by_cases hk : j = k
        · rw [if_pos hk, if_neg (by omega), if_pos hk]
        · rw [if_neg hk, if_neg hk]

theorem Memory.below_iff (capacity : Nat) (m : Memory w) :
    m.below capacity = true ↔ ∀ c ∈ m, c.1 < capacity := by
  simp [Memory.below]

/-- A write inside a capacity keeps it. -/
theorem Memory.write_below {m : Memory w} {i capacity : Nat} {v : BitVec w} (hm : m.below capacity = true)
    (hi : i < capacity) : (m.write i v).below capacity = true := by
  rw [Memory.below_iff] at *
  have hcons : ∀ {m : Memory w}, (∀ c ∈ m, c.1 < capacity) → ∀ c ∈ Memory.cons i v m, c.1 < capacity := by
    intro m hm c hc
    unfold Memory.cons at hc
    split at hc
    · exact hm c hc
    · rcases List.mem_cons.mp hc with rfl | hc
      · exact hi
      · exact hm c hc
  induction m with
  | nil => exact hcons hm
  | cons c m ih =>
    obtain ⟨j, u⟩ := c
    have ht : ∀ c ∈ m, c.1 < capacity := fun c hc => hm c (by simp [hc])
    rw [Memory.write]
    split
    · exact hcons hm
    · split
      · exact hcons ht
      · intro c hc
        rcases List.mem_cons.mp hc with rfl | hc
        · exact hm (j, u) (by simp)
        · exact ih ht c hc

/-- A write of a sequence keeps the canonical form. -/
theorem Memory.writeSeq_wf {m : Memory w} {i : Nat} {vs : List (BitVec w)} (hm : m.wf = true) :
    (m.writeSeq i vs).wf = true := by
  induction vs generalizing m i with
  | nil => exact hm
  | cons v vs ih => exact ih (Memory.write_wf hm)

/-- A write of a sequence inside a capacity keeps it. -/
theorem Memory.writeSeq_below {m : Memory w} {i capacity : Nat} {vs : List (BitVec w)}
    (hm : m.below capacity = true) (hi : i + vs.length ≤ capacity) : (m.writeSeq i vs).below capacity = true := by
  induction vs generalizing m i with
  | nil => exact hm
  | cons v vs ih =>
    simp only [List.length_cons] at hi
    exact ih (Memory.write_below hm (by omega)) (by omega)

/-- A read after a write of a sequence: the sequence's element, or what was there. -/
theorem Memory.read_writeSeq {m : Memory w} {i k : Nat} {vs : List (BitVec w)} (hm : m.wf = true) :
    (m.writeSeq i vs).read k = if i ≤ k then vs.getD (k - i) (m.read k) else m.read k := by
  induction vs generalizing m i with
  | nil => simp [Memory.writeSeq]
  | cons v vs ih =>
    rw [Memory.writeSeq, ih (Memory.write_wf hm), Memory.read_write hm]
    rcases Nat.lt_trichotomy k i with h | h | h
    · simp [show ¬ i + 1 ≤ k by omega, show ¬ i ≤ k by omega, show k ≠ i by omega]
    · subst h
      simp
    · obtain ⟨d, rfl⟩ := Nat.exists_eq_add_of_lt h
      simp only [show i + 1 ≤ i + d + 1 by omega, show i ≤ i + d + 1 by omega, show i + d + 1 ≠ i by omega, if_true,
        if_false, show i + d + 1 - i = (i + d + 1 - (i + 1)) + 1 by omega, List.getD_cons_succ]

theorem Memory.readSeq_length (m : Memory w) (n : Nat) : (m.readSeq n).length = n := by simp [Memory.readSeq]

theorem Memory.readSeq_getElem? (m : Memory w) (n k : Nat) :
    (m.readSeq n)[k]? = if k < n then some (m.read k) else none := by
  simp only [Memory.readSeq, List.getElem?_map]
  split <;> simp_all

/-- Two memories that agree on the first `n` elements give the same sequence. -/
theorem Memory.readSeq_congr {m m' : Memory w} {n : Nat} (h : ∀ k < n, m.read k = m'.read k) :
    m.readSeq n = m'.readSeq n := by
  simp only [Memory.readSeq]
  exact List.map_congr_left fun k hk => h k (List.mem_range.mp hk)

/-- The memory of a function is in canonical form, inside its capacity, and reads as the function. -/
theorem Memory.ofElements_spec (n : Nat) (f : Nat → BitVec w) :
    (Memory.ofElements n f).wf = true ∧ (Memory.ofElements n f).below n = true ∧
      ∀ k < n, (Memory.ofElements n f).read k = f k := by
  have key : ∀ (l : List Nat) (hl : l.Pairwise (· < ·)),
      let m := l.foldr (fun i m => Memory.cons i (f i) m) ([] : Memory w)
      m.wf = true ∧ (∀ c ∈ m, c.1 ∈ l) ∧ ∀ k ∈ l, m.read k = f k := by
    intro l
    induction l with
    | nil => simp [Memory.wf]
    | cons i l ih =>
      intro hl
      obtain ⟨hi, hl⟩ := List.pairwise_cons.mp hl
      obtain ⟨h1, h2, h3⟩ := ih hl
      have ha : Memory.above (i + 1) (l.foldr (fun i m => Memory.cons i (f i) m) ([] : Memory w)) :=
        fun c hc => hi _ (h2 c hc)
      refine ⟨Memory.wf_cons ha h1, ?_, ?_⟩
      · intro c hc
        simp only [List.foldr_cons, Memory.cons] at hc
        split at hc
        · exact List.mem_cons_of_mem _ (h2 c hc)
        · rcases List.mem_cons.mp hc with rfl | hc
          · simp
          · exact List.mem_cons_of_mem _ (h2 c hc)
      · intro k hk
        rw [List.foldr_cons, Memory.read_cons ha]
        split
        · subst k
          rfl
        · exact h3 k ((List.mem_cons.mp hk).resolve_left (fun h => ‹i ≠ k› h.symm))
  obtain ⟨h1, h2, h3⟩ := key (List.range n) List.pairwise_lt_range
  rw [Memory.ofElements]
  exact ⟨h1, (Memory.below_iff _ _).mpr fun c hc => List.mem_range.mp (h2 c hc),
    fun k hk => h3 k (List.mem_range.mpr hk)⟩

end Sys2Proof.Machine
end

