-- ==== Sys2Proof/Laws/Commands.lean ====
section
/-! SUPPORT. The rule of each command, inverted: what it leaves when it completes and in which state it raises. Later
proofs cite these and do not unfold a rule. -/

namespace Sys2Proof.Machine

open Sys2Proof.Reference

/-! ## Simple commands -/

theorem raise_eq_error {α : Type} {s : State} {c : Cause} {info : Int} {e : Stop}
    (h : (raise s c info : Except Stop α) = .error e) : e = ⟨c, info, s⟩ := by
  simpa [raise, eq_comm] using h

theorem raise_ne_ok {α : Type} {s : State} {c : Cause} {info : Int} {a : α} :
    (raise s c info : Except Stop α) ≠ .ok a := by simp [raise]

/-- A command with a scalar destination writes that register and nothing else. -/
theorem bodyOf_scalar {i : Instr} {rd : XReg} {s t : State} (hd : i.scalarDest = some rd)
    (h : bodyOf i s = .ok t) : ∃ w, t = s.writeXWord rd w := by
  cases i <;> simp only [Instr.scalarDest, Option.some.injEq, reduceCtorEq] at hd <;> subst hd <;>
    simp only [bodyOf] at h
  case csrr =>
    simp only [bodyCsrr] at h
    split at h
    · cases h; exact ⟨_, rfl⟩
    · exact absurd h raise_ne_ok
  case gfLog =>
    obtain ⟨_, _, h⟩ := bind_eq_ok h
    cases h; exact ⟨_, rfl⟩
  case polyGet =>
    simp only [bodyPolyGet] at h
    split at h
    · exact absurd h raise_ne_ok
    · cases h; exact ⟨_, rfl⟩
  case bbGet =>
    simp only [bodyBbGet] at h
    split at h
    · exact absurd h raise_ne_ok
    · cases h; exact ⟨_, rfl⟩
  case verSel =>
    obtain ⟨_, _, h⟩ := bind_eq_ok h
    cases h; exact ⟨_, rfl⟩
  case bchFmt =>
    obtain ⟨_, _, h⟩ := bind_eq_ok h
    cases h; exact ⟨_, rfl⟩
  case bchVer =>
    obtain ⟨_, _, h⟩ := bind_eq_ok h
    cases h; exact ⟨_, rfl⟩
  case bchDigit =>
    simp only [bodyBchDigit] at h
    split at h
    · exact absurd h raise_ne_ok
    · cases h; exact ⟨_, rfl⟩
  case maskTst =>
    simp only [bodyMaskTst] at h
    split at h
    · exact absurd h raise_ne_ok
    · obtain ⟨_, _, h⟩ := bind_eq_ok h
      obtain ⟨_, _, h⟩ := bind_eq_ok h
      obtain ⟨_, _, h⟩ := bind_eq_ok h
      cases h; exact ⟨_, rfl⟩
  case qDark =>
    simp only [bodyQDark] at h
    split at h
    · exact absurd h raise_ne_ok
    · split at h
      · exact absurd h raise_ne_ok
      · split at h
        · exact absurd h raise_ne_ok
        · cases h; exact ⟨_, rfl⟩
  all_goals (cases h; exact ⟨_, rfl⟩)

theorem storePoly_eq_ok {pd : PReg} {c : Poly} {s t : State} (h : storePoly pd c s = .ok t) :
    c.length ≤ Config.polyMax ∧ t = s.writeP pd c := by
  rcases storePoly_cases pd c s with ⟨hl, hs⟩ | ⟨-, hs⟩
  · rw [hs] at h
    cases h
    exact ⟨hl, rfl⟩
  · rw [hs] at h
    exact absurd h raise_ne_ok

/-- A command with a polynomial destination writes that register and nothing else. -/
theorem bodyOf_poly {i : Instr} {pd : PReg} {s t : State} (hd : i.polyDest = some pd)
    (h : bodyOf i s = .ok t) : ∃ c, t = s.writeP pd c := by
  cases i <;> simp only [Instr.polyDest, Option.some.injEq, reduceCtorEq] at hd <;> subst hd <;>
    simp only [bodyOf] at h
  case polyNew => exact ⟨_, (storePoly_eq_ok h).2⟩
  case polyMul =>
    obtain ⟨_, _, h⟩ := bind_eq_ok h
    exact ⟨_, (storePoly_eq_ok h).2⟩
  case polyMod =>
    obtain ⟨_, _, h⟩ := bind_eq_ok h
    cases h
    exact ⟨_, rfl⟩
  case rsGen =>
    obtain ⟨_, _, h⟩ := bind_eq_ok h
    exact ⟨_, (storePoly_eq_ok h).2⟩

/-! ## Control registers -/

/-- `CSRW` writes one register, or raises before it writes. -/
theorem bodyCsrw_cases (csr : BitVec 16) (ra : XReg) (s : State) :
    (∃ t, s.csrWrite csr.toNat s.x[ra] = .written t ∧ bodyCsrw csr ra s = .ok t) ∨
    (s.csrWrite csr.toNat s.x[ra] = .outOfRange ∧ bodyCsrw csr ra s = raise s .operandRange s.x[ra].toInt) ∨
    (s.csrWrite csr.toNat s.x[ra] = .notWritable ∧
      bodyCsrw csr ra s = raise s .illegalCommand (encode (.csrw csr ra)).toNat) := by
  unfold bodyCsrw zext16
  cases h : s.csrWrite csr.toNat s.x[ra]
  · exact .inl ⟨_, rfl, rfl⟩
  · exact .inr (.inl ⟨rfl, rfl⟩)
  · exact .inr (.inr ⟨rfl, rfl⟩)

/-! ## The bit buffer -/

theorem fits_iff (b : BitBuffer) (n : Nat) : b.fits n = true ↔ b.len + n ≤ 8 * Config.bbMaxBytes := by
  simp [BitBuffer.fits]

/-- `SEG.WRITE` appends the segment, or raises before it writes (rule R154). -/
theorem bodySegWrite_cases (s : State) :
    (s.bb.len + 8 * s.segLen ≤ 8 * Config.bbMaxBytes ∧
      bodySegWrite s = .ok (s.withBb (s.bb.pushAll (byteBits s.segment)))) ∨
    (8 * Config.bbMaxBytes < s.bb.len + 8 * s.segLen ∧
      bodySegWrite s = raise s .bufferLimit (s.bb.len + 8 * s.segLen)) := by
  unfold bodySegWrite
  by_cases h : s.bb.len + 8 * s.segLen ≤ 8 * Config.bbMaxBytes
  · refine .inl ⟨h, ?_⟩
    rw [(fits_iff _ _).mpr h]
    have hs : s.segment.length = s.segLen := Memory.readSeq_length ..
    rw [putBytes_ok (by rw [hs]; exact h)]
    rfl
  · refine .inr ⟨by omega, ?_⟩
    rw [show s.bb.fits (8 * s.segLen) = false by rw [← Bool.not_eq_true, fits_iff]; exact h]
    rfl

/-- `BB.PUT` appends the bits of its operand, or raises before it writes (rule R147). -/
theorem bodyBbPut_cases (ra rb : XReg) (s : State) :
    ((s.x[rb].toInt < 0 ∨ 32 < s.x[rb].toInt) ∧ bodyBbPut ra rb s = raise s .operandRange s.x[rb].toInt) ∨
    (0 ≤ s.x[rb].toInt ∧ s.x[rb].toInt ≤ 32 ∧ (8 * Config.bbMaxBytes : Int) < s.bb.len + s.x[rb].toInt ∧
      bodyBbPut ra rb s = raise s .bufferLimit (s.bb.len + s.x[rb].toInt)) ∨
    (0 ≤ s.x[rb].toInt ∧ s.x[rb].toInt ≤ 32 ∧ (s.bb.len + s.x[rb].toInt : Int) ≤ 8 * Config.bbMaxBytes ∧
      bodyBbPut ra rb s = .ok (s.withBb (s.bb.pushAll (msbBits s.x[ra].toNat s.x[rb].toInt.toNat)))) := by
  unfold bodyBbPut State.readX
  by_cases h1 : s.x[rb].toInt < 0 ∨ s.x[rb].toInt > 32
  · exact .inl ⟨h1, by simp only [h1, if_true]⟩
  · by_cases h2 : s.bb.fits s.x[rb].toInt.toNat = true
    · have h3 := (fits_iff _ _).mp h2
      refine .inr (.inr ⟨by omega, by omega, by omega, ?_⟩)
      simp only [h1, if_false, h2, Bool.not_true, Bool.false_eq_true]
      rw [zext32, put_ok h3]
      rfl
    · have h3 := mt (fits_iff _ _).mpr h2
      refine .inr (.inl ⟨by omega, by omega, by omega, ?_⟩)
      simp only [h1, if_false, Bool.not_eq_true _ ▸ h2, Bool.not_false, if_true]

/-- `BB.PUTBIT` appends a bit, or raises before it writes (rule R148). -/
theorem bodyBbPutbit_cases (ra : XReg) (s : State) :
    (s.bb.len + 1 ≤ 8 * Config.bbMaxBytes ∧ bodyBbPutbit ra s = .ok (s.withBb (s.bb.push (s.readX ra != 0)))) ∨
    (8 * Config.bbMaxBytes < s.bb.len + 1 ∧ bodyBbPutbit ra s = raise s .bufferLimit (s.bb.len + 1)) := by
  unfold bodyBbPutbit
  by_cases h : s.bb.len + 1 ≤ 8 * Config.bbMaxBytes
  · refine .inl ⟨h, ?_⟩
    rw [(fits_iff _ _).mpr h]
    rcases putBit_cases s.bb (s.readX ra != 0) with ⟨-, hp⟩ | ⟨h1, -, -⟩
    · rw [hp]
      rfl
    · omega
  · refine .inr ⟨by omega, ?_⟩
    rw [show s.bb.fits 1 = false by rw [← Bool.not_eq_true, fits_iff]; exact h]
    rfl

/-! ## The grid commands -/

/-- `GRID.INIT` (rule R251). -/
theorem bodyGridInit_cases (s : State) :
    (versionInRange s.version.toNat = true ∧ bodyGridInit s = .ok { s with
      modCnt := sideOf s.version.toNat, grid := Grid.blank (sideOf s.version.toNat), phase := .empty
      final := false, testF := false }) ∨
    (versionInRange s.version.toNat = false ∧
      bodyGridInit s = raise s .tableEntryMissing (tableIndex s.version.toNat s.level.toNat)) := by
  unfold bodyGridInit
  cases h : versionInRange s.version.toNat
  · exact .inr ⟨rfl, by simp [h]⟩
  · exact .inl ⟨rfl, by simp [h]⟩

/-- `GRID.STRUCT` (rule R268): it places the patterns, or raises in the state before it. -/
theorem bodyGridStruct_cases (test : Bool) (mask : BitVec 4) (s : State) :
    (8 ≤ mask.toNat ∧ bodyGridStruct rom test mask s = raise s .maskPattern mask.toNat) ∨
    (mask.toNat < 8 ∧ (s.phase ≠ .empty ∨ s.modCnt = 0 ∨ s.modCnt ≠ sideOf s.version.toNat) ∧
      bodyGridStruct rom test mask s = raise s .sequenceError s.phase.code) ∨
    (∃ h : mask.toNat < 8, s.phase = .empty ∧ s.modCnt ≠ 0 ∧ s.modCnt = sideOf s.version.toNat ∧
      bodyGridStruct rom test mask s = .ok { s with
        grid := structuralPatterns rom s.modCnt s.version.toNat s.level.toNat test ⟨mask.toNat, h⟩ s.grid
        mask := ⟨mask.toNat, h⟩, testF := test, phase := .structuralPatternsPlaced }) := by
  unfold bodyGridStruct
  by_cases h : mask.toNat < 8
  · rw [maskOperand_legal h]
    by_cases h1 : s.phase ≠ .empty ∨ s.modCnt = 0
    · refine .inr (.inl ⟨h, by tauto, ?_⟩)
      simp only [bind, Except.bind, h1, if_true]
    · by_cases h2 : s.modCnt ≠ sideOf s.version.toNat
      · refine .inr (.inl ⟨h, by tauto, ?_⟩)
        simp only [bind, Except.bind, h1, h2, if_true, if_false, ne_eq, not_false_eq_true]
      · refine .inr (.inr ⟨h, by tauto, by tauto, by tauto, ?_⟩)
        simp only [bind, Except.bind, h1, h2, if_false]
        rfl
  · exact .inl ⟨by omega, by rw [maskOperand_illegal (by omega)]; rfl⟩

/-- `GRID.MAP` (rule R272): it maps the stream, or raises in the state before it. -/
theorem bodyGridMap_cases (mask : BitVec 4) (s : State) :
    (8 ≤ mask.toNat ∧ bodyGridMap mask s = raise s .maskPattern mask.toNat) ∨
    (mask.toNat < 8 ∧ (s.phase ≠ .structuralPatternsPlaced ∨ s.modCnt ≠ sideOf s.version.toNat ∨
        mask.toNat ≠ s.mask.val ∨ s.dcValid = false) ∧
      bodyGridMap mask s = raise s .sequenceError s.phase.code) ∨
    (mask.toNat = s.mask.val ∧ s.phase = .structuralPatternsPlaced ∧ s.modCnt = sideOf s.version.toNat ∧
      s.dcValid = true ∧
      bodyGridMap mask s = .ok { s with grid := mapData s.modCnt s.cw s.mask s.grid, phase := .dataMapped }) := by
  unfold bodyGridMap
  by_cases h : mask.toNat < 8
  · rw [maskOperand_legal h]
    by_cases h1 : s.phase = .structuralPatternsPlaced
    · by_cases h2 : s.modCnt = sideOf s.version.toNat
      · by_cases h3 : mask.toNat = s.mask.val
        · have h3' : (⟨mask.toNat, h⟩ : Fin 8) = s.mask := Fin.ext h3
          cases h4 : s.dcValid
          · refine .inr (.inl ⟨h, by tauto, ?_⟩)
            simp [bind, Except.bind, h1, h2, h3']
          · refine .inr (.inr ⟨h3, h1, h2, rfl, ?_⟩)
            simp [bind, Except.bind, h1, h2, h3', pure, Except.pure]
        · have h3' : (⟨mask.toNat, h⟩ : Fin 8) ≠ s.mask := fun e => h3 (congrArg Fin.val e)
          refine .inr (.inl ⟨h, by tauto, ?_⟩)
          simp [bind, Except.bind, h1, h2, h3']
      · refine .inr (.inl ⟨h, by tauto, ?_⟩)
        simp [bind, Except.bind, h1, h2]
    · refine .inr (.inl ⟨h, by tauto, ?_⟩)
      simp [bind, Except.bind, h1]
  · exact .inl ⟨by omega, by rw [maskOperand_illegal (by omega)]; rfl⟩

/-- `GRID.FIN` (rule R275). -/
theorem bodyGridFin_cases (s : State) :
    (s.phase = .dataMapped ∧ s.testF = false ∧ bodyGridFin s = .ok { s with phase := .finalized, final := true }) ∨
    ((s.phase ≠ .dataMapped ∨ s.testF = true) ∧ bodyGridFin s = raise s .sequenceError s.phase.code) := by
  unfold bodyGridFin
  by_cases h1 : s.phase = .dataMapped
  · cases h2 : s.testF
    · exact .inl ⟨h1, rfl, by simp [h1]⟩
    · exact .inr ⟨.inr rfl, by simp [h1]⟩
  · exact .inr ⟨.inl h1, by simp [h1]⟩

/-! ## The composite commands -/

/-- The data of a symbol: kept when valid, else the four commands in order (rule R270). -/
theorem ensureData_cases (s : State) :
    (s.dcValid = true ∧ ensureData rom s = .ok s) ∨
    (s.dcValid = false ∧ ensureData rom s =
      (bodyDataSeg rom (s.withBb .empty) >>= fun u => bodyDataFin rom u >>= fun v => bodyRsEnc rom v)) := by
  unfold ensureData
  cases h : s.dcValid
  · exact .inr ⟨rfl, rfl⟩
  · exact .inl ⟨rfl, rfl⟩

/-- `MAKEIMPL` is its four parts in order, once its mask is one (rule R276). -/
theorem bodyMakeimpl_eq {test : Bool} {mask : BitVec 4} (h : mask.toNat < 8) (s : State) :
    bodyMakeimpl rom test mask s =
      (bodyGridInit s >>= fun a => bodyGridStruct rom test mask a >>= fun b => ensureData rom b >>= fun c =>
        bodyGridMap mask c) := by
  unfold bodyMakeimpl
  rw [maskOperand_legal h]
  rfl

/-- A run of two commands of which the first completes. -/
theorem runCommands_cons {i : Instr} {is : List Instr} {s t : State} (h : exec i s = .next t) :
    runCommands (i :: is) s = runCommands is t := by rw [runCommands, h]

end Sys2Proof.Machine
end

