-- ==== Sys2Proof/Laws/Decode.lean ====
section
/-! SUPPORT. The fields of a packed command word (rules R81, R84): each field reads back what was packed, and a mask
keeps the fixed fields and clears the operands. -/

namespace Sys2Proof

variable (op : BitVec 8) (ra rb rc rd : BitVec 4) (imm8 : BitVec 8) (imm16 : BitVec 16)

/-- A bit of a packed word. -/
theorem packFields_getLsbD (i : Nat) (hi : i < 32) : (packFields op ra rb rc rd imm8).getLsbD i =
    if i < 8 then imm8.getLsbD i else if i < 12 then rd.getLsbD (i - 8) else if i < 16 then rc.getLsbD (i - 12)
    else if i < 20 then rb.getLsbD (i - 16) else if i < 24 then ra.getLsbD (i - 20) else op.getLsbD (i - 24) := by
  simp only [packFields, BitVec.getLsbD_append]
  interval_cases i <;> simp

theorem packImm16_getLsbD (i : Nat) (hi : i < 32) : (packImm16 op ra imm16).getLsbD i =
    if i < 16 then imm16.getLsbD i else if i < 20 then false else if i < 24 then ra.getLsbD (i - 20)
    else op.getLsbD (i - 24) := by
  simp only [packImm16, BitVec.getLsbD_append]
  interval_cases i <;> simp

@[simp] theorem opField_packFields : opField (packFields op ra rb rc rd imm8) = op := by
  refine BitVec.eq_of_getLsbD_eq fun i hi => ?_
  rw [opField, BitVec.getLsbD_extractLsb', packFields_getLsbD _ _ _ _ _ _ _ (by omega)]
  interval_cases i <;> simp

@[simp] theorem raField_packFields : raField (packFields op ra rb rc rd imm8) = ra := by
  refine BitVec.eq_of_getLsbD_eq fun i hi => ?_
  rw [raField, BitVec.getLsbD_extractLsb', packFields_getLsbD _ _ _ _ _ _ _ (by omega)]
  interval_cases i <;> simp

@[simp] theorem rbField_packFields : rbField (packFields op ra rb rc rd imm8) = rb := by
  refine BitVec.eq_of_getLsbD_eq fun i hi => ?_
  rw [rbField, BitVec.getLsbD_extractLsb', packFields_getLsbD _ _ _ _ _ _ _ (by omega)]
  interval_cases i <;> simp

@[simp] theorem rcField_packFields : rcField (packFields op ra rb rc rd imm8) = rc := by
  refine BitVec.eq_of_getLsbD_eq fun i hi => ?_
  rw [rcField, BitVec.getLsbD_extractLsb', packFields_getLsbD _ _ _ _ _ _ _ (by omega)]
  interval_cases i <;> simp

@[simp] theorem rdField_packFields : rdField (packFields op ra rb rc rd imm8) = rd := by
  refine BitVec.eq_of_getLsbD_eq fun i hi => ?_
  rw [rdField, BitVec.getLsbD_extractLsb', packFields_getLsbD _ _ _ _ _ _ _ (by omega)]
  interval_cases i <;> simp

@[simp] theorem imm8Field_packFields : imm8Field (packFields op ra rb rc rd imm8) = imm8 := by
  refine BitVec.eq_of_getLsbD_eq fun i hi => ?_
  rw [imm8Field, BitVec.getLsbD_extractLsb', packFields_getLsbD _ _ _ _ _ _ _ (by omega)]
  interval_cases i <;> simp

@[simp] theorem opField_packImm16 : opField (packImm16 op ra imm16) = op := by
  refine BitVec.eq_of_getLsbD_eq fun i hi => ?_
  rw [opField, BitVec.getLsbD_extractLsb', packImm16_getLsbD _ _ _ _ (by omega)]
  interval_cases i <;> simp

@[simp] theorem raField_packImm16 : raField (packImm16 op ra imm16) = ra := by
  refine BitVec.eq_of_getLsbD_eq fun i hi => ?_
  rw [raField, BitVec.getLsbD_extractLsb', packImm16_getLsbD _ _ _ _ (by omega)]
  interval_cases i <;> simp

@[simp] theorem imm16Field_packImm16 : imm16Field (packImm16 op ra imm16) = imm16 := by
  refine BitVec.eq_of_getLsbD_eq fun i hi => ?_
  rw [imm16Field, BitVec.getLsbD_extractLsb', packImm16_getLsbD _ _ _ _ (by omega)]
  interval_cases i <;> simp

@[simp] theorem xOperand_xBits (r : XReg) : xOperand (xBits r) = r := by
  revert r
  decide

@[simp] theorem pOperand_pBits (r : PReg) : pOperand (pBits r) = r := by
  revert r
  decide

/-- The high 2 bits of a polynomial register's field are zero (rule R84). -/
theorem pBits_and_12 (r : PReg) : pBits r &&& 12 = 0 := by
  revert r
  decide

/-- A mask, field by field, of a packed word. -/
theorem packFields_and (op' : BitVec 8) (ra' rb' rc' rd' : BitVec 4) (imm8' : BitVec 8) :
    packFields op ra rb rc rd imm8 &&& packFields op' ra' rb' rc' rd' imm8' =
      packFields (op &&& op') (ra &&& ra') (rb &&& rb') (rc &&& rc') (rd &&& rd') (imm8 &&& imm8') := by
  refine BitVec.eq_of_getLsbD_eq fun i hi => ?_
  rw [BitVec.getLsbD_and, packFields_getLsbD _ _ _ _ _ _ _ hi, packFields_getLsbD _ _ _ _ _ _ _ hi,
    packFields_getLsbD _ _ _ _ _ _ _ hi]
  split_ifs <;> simp

/-- The mask of format I keeps the operation code and clears both operands. -/
theorem packImm16_and_mask : packImm16 op ra imm16 &&& 0xFF0F0000 = packImm16 op 0 0 := by
  refine BitVec.eq_of_getLsbD_eq fun i hi => ?_
  rw [BitVec.getLsbD_and, packImm16_getLsbD _ _ _ _ hi, packImm16_getLsbD _ _ _ _ hi]
  interval_cases i <;> simp

/-- Only the fields of its format of a command word are operands: the masks of rule R82, as packed fields. -/
theorem formatMasks_packed :
    (0xFFFFFFFF : Word) = packFields 0xFF 15 15 15 15 0xFF ∧ (0xFFFFF0FF : Word) = packFields 0xFF 15 15 15 0 0xFF ∧
    (0xFF0FFFFF : Word) = packFields 0xFF 0 15 15 15 0xFF ∧ (0xFF0FF0FF : Word) = packFields 0xFF 0 15 15 0 0xFF ∧
    (0xFF00FFFF : Word) = packFields 0xFF 0 0 15 15 0xFF ∧ (0xFF00F0FF : Word) = packFields 0xFF 0 0 15 0 0xFF ∧
    (0xFF0000FF : Word) = packFields 0xFF 0 0 0 0 0xFF ∧ (0xFFFFFC00 : Word) = packFields 0xFF 15 15 15 12 0 ∧
    (0xFFCCFCFF : Word) = packFields 0xFF 12 12 15 12 0xFF ∧ (0xFFCFF0FF : Word) = packFields 0xFF 12 15 15 0 0xFF ∧
    (0xFFC0F0FF : Word) = packFields 0xFF 12 0 15 0 0xFF ∧ (0xFFFFFF70 : Word) = packFields 0xFF 15 15 15 15 0x70 ∧
    (0xFFFFFFF0 : Word) = packFields 0xFF 15 15 15 15 0xF0 := by decide

/-- The bits of format M that are no operand (rule R83). -/
theorem testMaskBits_and (test : Bool) (mask : BitVec 4) : testMaskBits test mask &&& 0x70 = 0 := by
  revert test mask
  decide

theorem testMaskBits_false_and (mask : BitVec 4) : testMaskBits false mask &&& 0xF0 = 0 := by
  revert mask
  decide

end Sys2Proof
end

