-- ==== Sys2Proof/Laws/Gf.lean ====
section
/-! SUPPORT. The field GF(256) (rules R15, R101, R104): the tables against the reference description. -/

namespace Sys2Proof.Machine

open Sys2Proof.Reference

/-- `ROM.EXP` is the table of the powers of 2 (rule R101(d)). -/
theorem romExp_eq_pow2 : ∀ n < 255, romExp n = pow2 n := by decide +kernel

theorem romExp_ne_zero : ∀ n < 255, romExp n ≠ 0 := by decide +kernel

/-- `ROM.LOG` inverts it (rule R101(c)). -/
theorem romLog_spec : ∀ n < 256, 1 ≤ n → (romLog n).toNat < 255 ∧ pow2 (romLog n).toNat = BitVec.ofNat 8 n := by
  have h : ∀ n < 255, (BitVec.ofNat 8 (tableEntry logRows (n + 1))).toNat < 255 ∧
      pow2 (BitVec.ofNat 8 (tableEntry logRows (n + 1))).toNat = BitVec.ofNat 8 (n + 1) := by decide +kernel
  intro n hn h1
  obtain ⟨m, rfl⟩ : ∃ m, n = m + 1 := ⟨n - 1, by omega⟩
  rw [romLog, if_neg (by omega)]
  exact h m (by omega)

/-- The powers of 2 repeat after 255. -/
theorem pow2_add_255 (n : Nat) : pow2 (n + 255) = pow2 n := by
  induction n with
  | zero => decide +kernel
  | succ n ih =>
    rw [show n + 1 + 255 = (n + 255) + 1 by omega]
    change double (pow2 (n + 255)) = double (pow2 n)
    rw [ih]

theorem pow2_mod (n : Nat) : pow2 (n % 255) = pow2 n := by
  induction n using Nat.strongRecOn with
  | ind n ih =>
    by_cases h : n < 255
    · rw [Nat.mod_eq_of_lt h]
    · obtain ⟨m, rfl⟩ : ∃ m, n = m + 255 := ⟨n - 255, by omega⟩
      rw [pow2_add_255, ← ih m (by omega), Nat.add_mod_right]

theorem pow2_ne_zero (n : Nat) : pow2 n ≠ 0 := by
  rw [← pow2_mod, ← romExp_eq_pow2 _ (Nat.mod_lt _ (by omega))]
  exact romExp_ne_zero _ (Nat.mod_lt _ (by omega))

/-- `gexp` is the power of 2 (rule R103). -/
theorem gexp_eq_pow2 (n : Int) : gexp n = pow2 (n % 255).toNat :=
  romExp_eq_pow2 _ (by omega)

theorem gexp_natCast (n : Nat) : gexp n = pow2 n := by
  rw [gexp_eq_pow2, ← pow2_mod n]
  congr 1

theorem gexp_ne_zero (n : Int) : gexp n ≠ 0 := by
  rw [gexp_eq_pow2]
  exact pow2_ne_zero _

/-- Everything `glog` can do (rule R15). -/
theorem glog_cases (n : Int) :
    (n < 1 ∧ glog n = .error ⟨.logZero, n⟩) ∨ (255 < n ∧ glog n = .error ⟨.operandRange, n⟩) ∨
    (1 ≤ n ∧ n ≤ 255 ∧ ∃ k < 255, pow2 k = BitVec.ofNat 8 n.toNat ∧ glog n = .ok k) := by
  unfold glog
  by_cases h1 : n < 1
  · exact .inl ⟨h1, by simp [h1]⟩
  · by_cases h2 : n > 255
    · exact .inr (.inl ⟨h2, by simp [h1, h2]⟩)
    · obtain ⟨hk, hp⟩ := romLog_spec n.toNat (by omega) (by omega)
      exact .inr (.inr ⟨by omega, by omega, _, hk, hp, by simp [h1, h2]⟩)

/-- The logarithm of a coefficient: a fault on 0, else the exponent. -/
theorem glogByte_cases (c : Byte) :
    (c = 0 ∧ glogByte c = .error ⟨.logZero, 0⟩) ∨ (c ≠ 0 ∧ ∃ k < 255, pow2 k = c ∧ glogByte c = .ok k) := by
  have hlt := c.isLt
  rcases glog_cases c.toNat with ⟨h, hg⟩ | ⟨h, hg⟩ | ⟨h1, h2, k, hk, hp, hg⟩
  · have h0 : c.toNat = 0 := by omega
    refine .inl ⟨BitVec.eq_of_toNat_eq (by simpa using h0), ?_⟩
    rw [glogByte, hg, h0]
    rfl
  · omega
  · refine .inr ⟨?_, k, hk, ?_, hg⟩
    · rintro rfl
      simp at h1
    · rw [hp]
      exact BitVec.eq_of_toNat_eq (by simp)

/-! ## The product of the field -/

theorem double_xor (a b : Byte) : double (a ^^^ b) = double a ^^^ double b := by
  have h : ∀ x y : Bool, (if (x ^^ y) = true then (0x1D : Byte) else 0) =
      (if x = true then 0x1D else 0) ^^^ (if y = true then 0x1D else 0) := by decide
  unfold double
  rw [BitVec.shiftLeft_xor_distrib, BitVec.getLsbD_xor, h]
  ac_rfl

theorem double_zero : double 0 = 0 := by decide

theorem timesPow2_xor (a b : Byte) (n : Nat) : timesPow2 (a ^^^ b) n = timesPow2 a n ^^^ timesPow2 b n := by
  induction n with
  | zero => rfl
  | succ n ih => rw [timesPow2, ih, double_xor]; rfl

theorem timesPow2_zero (n : Nat) : timesPow2 0 n = 0 := by
  induction n with
  | zero => rfl
  | succ n ih => rw [timesPow2, ih, double_zero]

theorem timesPow2_add (a : Byte) (m n : Nat) : timesPow2 a (m + n) = timesPow2 (timesPow2 a m) n := by
  induction n with
  | zero => rfl
  | succ n ih => rw [← Nat.add_assoc, timesPow2, ih]; rfl

/-- The product, its eight terms written out. -/
theorem fieldMul_eq (a b : Byte) : fieldMul a b =
    (if b.getLsbD 0 then timesPow2 a 0 else 0) ^^^ ((if b.getLsbD 1 then timesPow2 a 1 else 0) ^^^
    ((if b.getLsbD 2 then timesPow2 a 2 else 0) ^^^ ((if b.getLsbD 3 then timesPow2 a 3 else 0) ^^^
    ((if b.getLsbD 4 then timesPow2 a 4 else 0) ^^^ ((if b.getLsbD 5 then timesPow2 a 5 else 0) ^^^
    ((if b.getLsbD 6 then timesPow2 a 6 else 0) ^^^ ((if b.getLsbD 7 then timesPow2 a 7 else 0) ^^^ 0))))))) := rfl

theorem ite_xor_ite (p q : Bool) (a : Byte) :
    (if (p ^^ q) = true then a else 0) = (if p = true then a else 0) ^^^ (if q = true then a else 0) := by
  cases p <;> cases q <;> simp

/-- The product is linear in its second factor. -/
theorem fieldMul_xor_right (a b c : Byte) : fieldMul a (b ^^^ c) = fieldMul a b ^^^ fieldMul a c := by
  simp only [fieldMul_eq, BitVec.getLsbD_xor, ite_xor_ite]
  ac_rfl

/-- The product is linear in its first factor. -/
theorem fieldMul_xor_left (a b c : Byte) : fieldMul (a ^^^ b) c = fieldMul a c ^^^ fieldMul b c := by
  have h : ∀ (p : Bool) (x y : Byte), (if p = true then x ^^^ y else 0) =
      (if p = true then x else 0) ^^^ (if p = true then y else 0) := by
    intro p x y
    cases p <;> simp
  simp only [fieldMul_eq, timesPow2_xor, h]
  ac_rfl

theorem fieldMul_zero_left (c : Byte) : fieldMul 0 c = 0 := by
  simp only [fieldMul_eq, timesPow2_zero, ite_self]
  rfl

theorem fieldMul_zero_right (c : Byte) : fieldMul c 0 = 0 := by
  have h : ∀ i, (0 : Byte).getLsbD i = false := fun i => BitVec.getLsbD_zero
  simp only [fieldMul_eq, h, Bool.false_eq_true, if_false]
  rfl

/-- Doubling the first factor doubles the product. -/
theorem fieldMul_double_left (a b : Byte) : fieldMul (double a) b = double (fieldMul a b) := by
  have h : ∀ (p : Bool) (x : Byte), double (if p = true then x else 0) = if p = true then double x else 0 := by
    intro p x
    cases p
    · exact double_zero
    · rfl
  have ht : ∀ n, timesPow2 (double a) n = double (timesPow2 a n) := by
    intro n
    induction n with
    | zero => rfl
    | succ n ih => rw [timesPow2, ih]; rfl
  simp only [fieldMul_eq, double_xor, h, ht, double_zero]

theorem fieldMul_one_left (b : Byte) : fieldMul 1 b = b := by
  revert b
  decide +kernel

/-- Multiplying by `2^n` on the left is doubling `n` times. -/
theorem fieldMul_pow2_left (n : Nat) (b : Byte) : fieldMul (pow2 n) b = timesPow2 b n := by
  induction n with
  | zero => exact fieldMul_one_left b
  | succ n ih => rw [show pow2 (n + 1) = double (pow2 n) from rfl, fieldMul_double_left, ih]; rfl

/-- Exponents add. -/
theorem fieldMul_pow2_pow2 (m n : Nat) : fieldMul (pow2 m) (pow2 n) = pow2 (m + n) := by
  rw [fieldMul_pow2_left, Nat.add_comm, pow2, pow2, timesPow2_add]

/-- Every element but 0 is a power of 2. -/
theorem exists_pow2 {a : Byte} (h : a ≠ 0) : ∃ k < 255, pow2 k = a := by
  rcases glogByte_cases a with ⟨h0, -⟩ | ⟨-, k, hk, hp, -⟩
  · exact absurd h0 h
  · exact ⟨k, hk, hp⟩

theorem fieldMul_comm (a b : Byte) : fieldMul a b = fieldMul b a := by
  by_cases ha : a = 0
  · rw [ha, fieldMul_zero_left, fieldMul_zero_right]
  by_cases hb : b = 0
  · rw [hb, fieldMul_zero_left, fieldMul_zero_right]
  obtain ⟨m, -, rfl⟩ := exists_pow2 ha
  obtain ⟨n, -, rfl⟩ := exists_pow2 hb
  rw [fieldMul_pow2_pow2, fieldMul_pow2_pow2, Nat.add_comm]

theorem fieldMul_assoc (a b c : Byte) : fieldMul (fieldMul a b) c = fieldMul a (fieldMul b c) := by
  by_cases ha : a = 0
  · simp only [ha, fieldMul_zero_left]
  by_cases hb : b = 0
  · simp only [hb, fieldMul_zero_left, fieldMul_zero_right]
  by_cases hc : c = 0
  · simp only [hc, fieldMul_zero_right]
  obtain ⟨k, -, rfl⟩ := exists_pow2 ha
  obtain ⟨m, -, rfl⟩ := exists_pow2 hb
  obtain ⟨n, -, rfl⟩ := exists_pow2 hc
  simp only [fieldMul_pow2_pow2, Nat.add_assoc]

/-- A product of elements other than 0 is not 0 (rule R104(d)). -/
theorem fieldMul_ne_zero {a b : Byte} (ha : a ≠ 0) (hb : b ≠ 0) : fieldMul a b ≠ 0 := by
  obtain ⟨m, -, rfl⟩ := exists_pow2 ha
  obtain ⟨n, -, rfl⟩ := exists_pow2 hb
  rw [fieldMul_pow2_pow2]
  exact pow2_ne_zero _

/-- `gfmul` is the product, and faults on 0 (rules R15, R104(d), (e)). -/
theorem gfmul_cases (a b : Byte) :
    ((a = 0 ∨ b = 0) ∧ gfmul a b = .error ⟨.logZero, 0⟩) ∨ (a ≠ 0 ∧ b ≠ 0 ∧ gfmul a b = .ok (fieldMul a b)) := by
  unfold gfmul
  rcases glogByte_cases a with ⟨ha, hga⟩ | ⟨ha, m, -, rfl, hga⟩
  · exact .inl ⟨.inl ha, by rw [hga]; rfl⟩
  · rcases glogByte_cases b with ⟨hb, hgb⟩ | ⟨hb, n, -, rfl, hgb⟩
    · exact .inl ⟨.inr hb, by rw [hga, hgb]; rfl⟩
    · refine .inr ⟨ha, hb, ?_⟩
      rw [hga, hgb, fieldMul_pow2_pow2]
      exact congrArg Except.ok (gexp_natCast (m + n))

end Sys2Proof.Machine
end

