-- ==== Sys2Proof/Laws/HostPort.lean ====
section
/-! SUPPORT. The host's reads: what a read can do, when it is refused, what it answers of each kind of space, and that
the answer depends on neither the port nor an earlier answer (rules R60 to R62, R69, R71). -/

namespace Sys2Proof.Machine

open Sys2Proof.Reference

/-- Taking a read from the port changes the port and the answer alone. -/
theorem taken_read (s : State) (sp : Space) (k : Nat) (rest : List HostTxn) :
    s.taken (.read sp k) rest = { s with port := rest, reply := .none } := rfl

/-- Every other transaction begins a new epoch. -/
theorem taken_other (s : State) (t : HostTxn) (rest : List HostTxn) (h : t.isRead = false) :
    s.taken t rest = { s with port := rest, reply := .none, freeIdx := s.freeIdx + 1 } := by
  simp [State.taken, h]

/-! ## An access by its index -/

theorem within_inside (s access : State) {capacity index : Nat} (h : index < capacity) :
    s.within capacity index access = access := if_pos h

theorem within_outside (s access : State) {capacity index : Nat} (h : capacity ≤ index) :
    s.within capacity index access = s := if_neg (Nat.not_lt.mpr h)

/-- An element that the length register covers is the stored one. -/
theorem used?_inside {width : Nat} (m : Memory width) {length index : Nat} (h : index < length) :
    m.used? length index = some (m.read index) := if_pos h

theorem used?_outside {width : Nat} (m : Memory width) {length index : Nat} (h : length ≤ index) :
    m.used? length index = none := if_neg (Nat.not_lt.mpr h)

/-- A read of one element answers the stored one, or some element where there is none. -/
theorem readElement_eq {width : Nat} (s : State) {capacity index : Nat} (stored : Option (BitVec width))
    (free : Nat → Nat → BitVec width) (h : index < capacity) :
    ∃ b, s.readElement capacity index stored free = s.answer (.element (b.setWidth 32)) ∧
      ∀ a, stored = some a → b = a :=
  ⟨stored.getD (free s.freeIdx index), within_inside _ _ h, fun a ha => by rw [ha]; rfl⟩

/-! ## Every read -/

/-- A control register outside 0 to 16 has no value. -/
theorem csrRead_outside (s : State) {n : Nat} (h : 17 ≤ n) : s.csrRead n = none := by
  unfold State.csrRead
  split <;> first | omega | rfl

/-- A read outside the capacity is refused. -/
theorem hostRead_outside (s : State) (sp : Space) {k : Nat} (h : readCapacity sp ≤ k) : s.hostRead sp k = s := by
  cases sp with
  | csr => simp [State.hostRead, csrRead_outside s h]
  | grid => rfl
  | rom => rfl
  | _ => exact within_outside _ _ h

/-- What a read answers, the port and an earlier answer put aside. -/
def readReply (s : State) (sp : Space) (k : Nat) : Reply :=
  (({ s with port := [], reply := .none } : State).hostRead sp k).reply

/-- A read outside the capacity answers nothing. -/
theorem readReply_outside (s : State) (sp : Space) {k : Nat} (h : readCapacity sp ≤ k) :
    readReply s sp k = .none := by
  rw [readReply, hostRead_outside _ sp h]

/-- Everything a read does, once it has been taken from the port: it answers, and the answer does not depend on what
waits behind it. -/
theorem hostRead_taken (s : State) (sp : Space) (k : Nat) (rest : List HostTxn) :
    ({ s with port := rest, reply := .none } : State).hostRead sp k =
      { s with port := rest, reply := readReply s sp k } := by
  rcases Nat.lt_or_ge k (readCapacity sp) with h | h
  · cases sp with
    | csr =>
      have hc : ∀ (p : List HostTxn), ({ s with port := p, reply := .none } : State).csrRead k = s.csrRead k :=
        fun _ => rfl
      simp only [readReply, State.hostRead, hc]
      cases s.csrRead k <;> rfl
    | grid => exact absurd h (Nat.not_lt_zero k)
    | rom => exact absurd h (Nat.not_lt_zero k)
    | _ =>
      simp only [readCapacity] at h
      simp only [readReply, State.hostRead, State.readElement, State.readBlk, State.within, if_pos h]
      rfl
  · rw [hostRead_outside _ sp h, readReply_outside s sp h]

/-- A step that takes a read. -/
theorem step_read {s : State} {sp : Space} {k : Nat} {rest : List HostTxn} (hp : s.port = .read sp k :: rest) :
    step s = .next { s with port := rest, reply := readReply s sp k } := by
  simp only [step, hp, perform, taken_read, hostRead_taken]

/-! ## A write of a length register -/

/-- A length register takes the values up to its buffer's capacity: read as signed, the others are negative or above
(rule R53). -/
theorem lengthWrite_eq {capacity : Nat} (hc : capacity < 2 ^ 31) (w : Word) (store : Nat → State) :
    lengthWrite capacity w.toInt store =
      if w.toNat ≤ capacity then .written (store w.toNat) else .outOfRange := by
  have hw := w.isLt
  have hi : w.toNat ≤ capacity → w.toInt = w.toNat := fun h => by
    rw [BitVec.toInt_eq_toNat_cond, if_pos (by omega)]
  unfold lengthWrite
  split
  · rename_i h
    rw [if_neg fun hn => ?_]
    rw [hi hn] at h
    omega
  · rename_i h
    have hn : w.toNat ≤ capacity := by
      rw [BitVec.toInt_eq_toNat_cond] at h
      split at h <;> omega
    rw [if_pos hn, hi hn, Int.toNat_natCast]

end Sys2Proof.Machine
end

