-- ==== Sys2Proof/Laws/Make.lean ====
section
/-! SUPPORT. The composite commands once a valid codeword stream is there: no part of `MAKEIMPL` can raise then, and
a search over trials that all complete completes (rules R270, R276, R280, R281). -/

namespace Sys2Proof.Machine

open Sys2Proof.Reference

/-- What `MAKEIMPL` leaves: a mapped grid of the version's side, a valid stream, the version and the level kept. -/
structure State.Mapped (s t : State) (test : Bool) : Prop where
  phase : t.phase = .dataMapped
  testF : t.testF = test
  dcValid : t.dcValid = true
  version : t.version = s.version
  level : t.level = s.level
  side : t.modCnt = sideOf s.version.toNat
  fault : t.fault = s.fault

theorem maskBits_toNat (p : Fin 8) : (maskBits p).toNat = p.val := by
  have : p.val % 16 = p.val := by omega
  simpa [maskBits] using this

theorem sideOf_ne_zero (v : Nat) : sideOf v ≠ 0 := by simp [sideOf]

/-- The bit buffer's and the codewords' registers aside, preparing the data changes nothing but DCVALID. -/
structure State.SameLayout (s t : State) : Prop where
  version : t.version = s.version
  level : t.level = s.level
  phase : t.phase = s.phase
  modCnt : t.modCnt = s.modCnt
  mask : t.mask = s.mask
  testF : t.testF = s.testF
  grid : t.grid = s.grid
  fault : t.fault = s.fault

/-- `MAKEIMPL` completes when preparing the data does, for every mask pattern. -/
theorem bodyMakeimpl_of_data {test : Bool} {p : Fin 8} {s : State} (hv : versionInRange s.version.toNat = true)
    (hd : ∀ b : State, b.version = s.version → b.level = s.level → b.bb = s.bb → b.cw = s.cw → b.seg = s.seg →
      b.segLen = s.segLen → b.dcValid = s.dcValid → ∃ c, ensureData rom b = .ok c ∧ b.SameLayout c ∧ c.dcValid = true) :
    ∃ t, bodyMakeimpl rom test (maskBits p) s = .ok t ∧ s.Mapped t test := by
  have hp := maskBits_toNat p
  rw [bodyMakeimpl_eq (by omega)]
  rcases bodyGridInit_cases s with ⟨-, hi⟩ | ⟨hi, -⟩
  swap
  · rw [hv] at hi; cases hi
  rw [hi]
  simp only [bind, Except.bind]
  rcases bodyGridStruct_cases test (maskBits p) { s with
      modCnt := sideOf s.version.toNat, grid := Grid.blank (sideOf s.version.toNat), phase := .empty
      final := false, testF := false } with ⟨h, -⟩ | ⟨-, h, -⟩ | ⟨_, -, -, -, hs⟩
  · omega
  · rcases h with h | h | h
    · exact absurd rfl h
    · exact absurd h (sideOf_ne_zero _)
    · exact absurd rfl h
  rw [hs]
  obtain ⟨c, hc, hl, hdc⟩ := hd { s with
      grid := structuralPatterns rom (sideOf s.version.toNat) s.version.toNat s.level.toNat test
        ⟨(maskBits p).toNat, by omega⟩ (Grid.blank (sideOf s.version.toNat))
      modCnt := sideOf s.version.toNat, phase := .structuralPatternsPlaced
      mask := ⟨(maskBits p).toNat, by omega⟩, testF := test, final := false } rfl rfl rfl rfl rfl rfl rfl
  have hcv := hl.version
  have hcl := hl.level
  have hcp := hl.phase
  have hcm := hl.modCnt
  have hck := hl.mask
  have hct := hl.testF
  have hcf := hl.fault
  simp only at hcv hcl hcp hcm hck hct hcf
  simp only [hc]
  rcases bodyGridMap_cases (maskBits p) c with ⟨h, -⟩ | ⟨-, h, -⟩ | ⟨-, -, -, -, hm⟩
  · omega
  · rw [hcp, hcm, hck, hcv, hdc] at h
    simp at h
  · exact ⟨_, hm, rfl, hct, hdc, hcv, hcl, hcm, hcf⟩

/-- With a valid stream and a version of the tables `MAKEIMPL` completes for every mask pattern. -/
theorem bodyMakeimpl_of_valid {test : Bool} {p : Fin 8} {s : State} (hv : versionInRange s.version.toNat = true)
    (hd : s.dcValid = true) : ∃ t, bodyMakeimpl rom test (maskBits p) s = .ok t ∧ s.Mapped t test := by
  refine bodyMakeimpl_of_data hv fun b _ _ _ _ _ _ hb => ⟨b, ?_, ⟨rfl, rfl, rfl, rfl, rfl, rfl, rfl, rfl⟩, by rw [hb, hd]⟩
  rcases ensureData_cases b with ⟨-, h⟩ | ⟨h, -⟩
  · exact h
  · rw [hb, hd] at h; cases h

/-- The trials of any patterns complete when the stream is valid, and keep it so. -/
theorem runTrials_of_valid (ps : List (Fin 8)) {s : State} (best : Trial)
    (hv : versionInRange s.version.toNat = true) (hd : s.dcValid = true) :
    ∃ t win, runTrials rom ps s best = .ok (t, win) ∧ t.version = s.version ∧ t.dcValid = true ∧
      t.fault = s.fault := by
  induction ps generalizing s best with
  | nil => exact ⟨s, best, rfl, rfl, hd, rfl⟩
  | cons p ps ih =>
    obtain ⟨u, hu, m⟩ := bodyMakeimpl_of_valid (test := true) (p := p) hv hd
    obtain ⟨t, win, ht, htv, htd, htf⟩ := ih (s := u) (betterTrial u.modCnt best ⟨p, lostPoint u.grid u.modCnt⟩)
      (by rw [m.version]; exact hv) m.dcValid
    refine ⟨t, win, ?_, by rw [htv, m.version], htd, by rw [htf, m.fault]⟩
    rw [runTrials, runTrial, hu]
    exact ht

/-- `MAKE` completes when its version is one and its first trial completes. -/
theorem bodyMake_of_first_trial {s a b c : State} (ha : bodySegEnc s.clearDcValid = .ok a)
    (hb : resolveVersion rom a = .ok b) (hv : versionInRange b.version.toNat = true)
    (hc : bodyMakeimpl rom true (maskBits 0) b = .ok c) (hcv : c.version = b.version) (hcd : c.dcValid = true) :
    ∃ t, bodyMake rom s = .ok t ∧ t.version = b.version ∧ t.fault = c.fault := by
  obtain ⟨d, win, hd, hdv, hdd, hdf⟩ := runTrials_of_valid [1, 2, 3, 4, 5, 6, 7] (s := c)
    ⟨0, lostPoint c.grid c.modCnt⟩ (by rw [hcv]; exact hv) hcd
  obtain ⟨e, he, m⟩ := bodyMakeimpl_of_valid (test := false) (p := win.pattern) (s := d)
    (by rw [hdv, hcv]; exact hv) hdd
  rcases bodyGridFin_cases e with ⟨-, -, hf⟩ | ⟨h, -⟩
  swap
  · rw [m.phase, m.testF] at h; simp at h
  refine ⟨{ { e with phase := .finalized, final := true } with mask := win.pattern }.writeScore win.score, ?_, ?_, ?_⟩
  · unfold bodyMake selectMask runTrial
    rw [ha]
    simp only [bind, Except.bind, hb, hc, pure, Except.pure, hd, he, hf]
  · show e.version = b.version
    rw [m.version, hdv, hcv]
  · show e.fault = c.fault
    rw [m.fault, hdf]

end Sys2Proof.Machine
end

