-- ==== Sys2Proof/Laws/PerInstr.lean ====
section
/-! SUPPORT. Statements made for every command, one lemma a constructor. The family `SelectsRow`: the word of a
command selects a row of the opcode map under the row's mask, with every operand (rules R82, R85). -/

namespace Sys2Proof.Laws.SelectsRow

open Sys2Proof.Reference

/-- The word of the command selects some row of the opcode map. -/
def Statement (i : Instr) : Prop := ∃ row ∈ opcodeRows, selectsRow (encode i) row = true

/-- A packed word selects a row whose mask and match are packed and agree with it. -/
theorem of_packed {i : Instr} {op : BitVec 8} {ra rb rc rd : BitVec 4} {imm8 : BitVec 8}
    (he : encode i = packFields op ra rb rc rd imm8) (op' : BitVec 8) (ra' rb' rc' rd' : BitVec 4) (imm8' : BitVec 8)
    (match' : Word) (hrow : (packFields op' ra' rb' rc' rd' imm8', match') ∈ opcodeRows)
    (h : packFields (op &&& op') (ra &&& ra') (rb &&& rb') (rc &&& rc') (rd &&& rd') (imm8 &&& imm8') = match') :
    Statement i :=
  ⟨_, hrow, by rw [selectsRow, he, packFields_and, h]; exact beq_self_eq_true _⟩

theorem nop : Statement .nop := ⟨(0xFFFFFFFF, 0x00000000), by decide, by decide⟩

theorem set (ra : XReg) (imm16 : BitVec 16) : Statement (.set ra imm16) := by
  refine ⟨(0xFF0F0000, 0x01000000), by decide, ?_⟩
  simp only [selectsRow, encode, packImm16_and_mask]
  decide

theorem reset : Statement .reset := ⟨(0xFFFFFFFF, 0x02000000), by decide, by decide⟩

theorem csrr (ra : XReg) (csr : BitVec 16) : Statement (.csrr ra csr) := by
  refine ⟨(0xFF0F0000, 0x03000000), by decide, ?_⟩
  simp only [selectsRow, encode, packImm16_and_mask]
  decide

theorem csrw (csr : BitVec 16) (ra : XReg) : Statement (.csrw csr ra) := by
  refine ⟨(0xFF0F0000, 0x04000000), by decide, ?_⟩
  simp only [selectsRow, encode, packImm16_and_mask]
  decide

theorem gfLog (rd ra : XReg) : Statement (.gfLog rd ra) :=
  of_packed rfl 0xFF 0 15 15 0 0xFF 0x10000000 (by decide) (by simp; decide)

theorem gfExp (rd ra : XReg) : Statement (.gfExp rd ra) :=
  of_packed rfl 0xFF 0 15 15 0 0xFF 0x11000000 (by decide) (by simp; decide)

theorem polyNew (pd : PReg) (shift : BitVec 8) : Statement (.polyNew pd shift) :=
  of_packed rfl 0xFF 15 15 15 12 0 0x20000000 (by decide) (by rw [pBits_and_12]; simp; decide)

theorem polyMul (pd pa pb : PReg) : Statement (.polyMul pd pa pb) :=
  of_packed rfl 0xFF 12 12 15 12 0xFF 0x21000000 (by decide) (by simp only [pBits_and_12]; decide)

theorem polyMod (pd pa pb : PReg) : Statement (.polyMod pd pa pb) :=
  of_packed rfl 0xFF 12 12 15 12 0xFF 0x22000000 (by decide) (by simp only [pBits_and_12]; decide)

theorem polyLen (rd : XReg) (pa : PReg) : Statement (.polyLen rd pa) :=
  of_packed rfl 0xFF 12 15 15 0 0xFF 0x23000000 (by decide) (by rw [pBits_and_12]; simp; decide)

theorem polyGet (rd : XReg) (pa : PReg) (rb : XReg) : Statement (.polyGet rd pa rb) :=
  of_packed rfl 0xFF 12 0 15 0 0xFF 0x24000000 (by decide) (by rw [pBits_and_12]; simp; decide)

theorem bbClr : Statement .bbClr := ⟨(0xFFFFFFFF, 0x30000000), by decide, by decide⟩

theorem bbPut (ra rb : XReg) : Statement (.bbPut ra rb) :=
  of_packed rfl 0xFF 0 0 15 15 0xFF 0x31000000 (by decide) (by simp; decide)

theorem bbPutbit (ra : XReg) : Statement (.bbPutbit ra) :=
  of_packed rfl 0xFF 0 15 15 15 0xFF 0x32000000 (by decide) (by simp; decide)

theorem bbGet (rd ra : XReg) : Statement (.bbGet rd ra) :=
  of_packed rfl 0xFF 0 15 15 0 0xFF 0x33000000 (by decide) (by simp; decide)

theorem segEnc : Statement .segEnc := ⟨(0xFFFFFFFF, 0x34000000), by decide, by decide⟩

theorem segLen (rd : XReg) : Statement (.segLen rd) :=
  of_packed rfl 0xFF 15 15 15 0 0xFF 0x35000000 (by decide) (by simp; decide)

theorem segWrite : Statement .segWrite := ⟨(0xFFFFFFFF, 0x36000000), by decide, by decide⟩

theorem utf8Len (rd : XReg) : Statement (.utf8Len rd) :=
  of_packed rfl 0xFF 15 15 15 0 0xFF 0x37000000 (by decide) (by simp; decide)

theorem dataSeg : Statement .dataSeg := ⟨(0xFFFFFFFF, 0x38000000), by decide, by decide⟩

theorem dataFin : Statement .dataFin := ⟨(0xFFFFFFFF, 0x39000000), by decide, by decide⟩

theorem verSel (rd ra : XReg) : Statement (.verSel rd ra) :=
  of_packed rfl 0xFF 0 15 15 0 0xFF 0x3A000000 (by decide) (by simp; decide)

theorem rsBlocks : Statement .rsBlocks := ⟨(0xFFFFFFFF, 0x40000000), by decide, by decide⟩

theorem rsGen (pd : PReg) (ecCount : BitVec 8) : Statement (.rsGen pd ecCount) :=
  of_packed rfl 0xFF 15 15 15 12 0 0x41000000 (by decide) (by rw [pBits_and_12]; simp; decide)

theorem rsEnc : Statement .rsEnc := ⟨(0xFFFFFFFF, 0x42000000), by decide, by decide⟩

theorem bchFmt (rd ra : XReg) : Statement (.bchFmt rd ra) :=
  of_packed rfl 0xFF 0 15 15 0 0xFF 0x50000000 (by decide) (by simp; decide)

theorem bchVer (rd ra : XReg) : Statement (.bchVer rd ra) :=
  of_packed rfl 0xFF 0 15 15 0 0xFF 0x51000000 (by decide) (by simp; decide)

theorem bchDigit (rd ra : XReg) : Statement (.bchDigit rd ra) :=
  of_packed rfl 0xFF 0 15 15 0 0xFF 0x52000000 (by decide) (by simp; decide)

theorem maskTst (rd ra rb rc : XReg) : Statement (.maskTst rd ra rb rc) :=
  of_packed rfl 0xFF 0 0 0 0 0xFF 0x53000000 (by decide) (by simp; decide)

theorem score : Statement .score := ⟨(0xFFFFFFFF, 0x54000000), by decide, by decide⟩

theorem gridInit : Statement .gridInit := ⟨(0xFFFFFFFF, 0x60000000), by decide, by decide⟩

theorem gridStruct (test : Bool) (mask : BitVec 4) : Statement (.gridStruct test mask) :=
  of_packed rfl 0xFF 15 15 15 15 0x70 0x61000000 (by decide) (by rw [testMaskBits_and]; decide)

theorem gridMap (mask : BitVec 4) : Statement (.gridMap mask) :=
  of_packed rfl 0xFF 15 15 15 15 0xF0 0x62000000 (by decide) (by rw [testMaskBits_false_and]; decide)

theorem gridFin : Statement .gridFin := ⟨(0xFFFFFFFF, 0x63000000), by decide, by decide⟩

theorem makeimpl (test : Bool) (mask : BitVec 4) : Statement (.makeimpl test mask) :=
  of_packed rfl 0xFF 15 15 15 15 0x70 0x64000000 (by decide) (by rw [testMaskBits_and]; decide)

theorem make : Statement .make := ⟨(0xFFFFFFFF, 0x65000000), by decide, by decide⟩

theorem qCount (rd : XReg) : Statement (.qCount rd) :=
  of_packed rfl 0xFF 15 15 15 0 0xFF 0x66000000 (by decide) (by simp; decide)

theorem qDark (rd ra rb : XReg) : Statement (.qDark rd ra rb) :=
  of_packed rfl 0xFF 0 0 15 0 0xFF 0x67000000 (by decide) (by simp; decide)

end Sys2Proof.Laws.SelectsRow
end

