-- ==== Sys2Proof/Tests/Slice0.lean ====
section
/-! SUPPORT. Tests: ill-formed terms refused, words written out from the encoding tables, the worked values of
95_test_vectors.md (each test names its part), and for every obligation with hypotheses a concrete state that meets
them, at the boundary of each clause. -/

namespace Sys2Proof.Tests

open Sys2Proof Sys2Proof.Machine Sys2Proof.Reference

-- One theorem's kernel check at a time: each runs in a thread of its own, and all at once they outgrow the sandbox.
set_option Elab.async false

/-! ## Small states -/

/-- The state a command leaves. -/
def after (i : Instr) (s : State) : State :=
  match exec i s with
  | .next t => t
  | .fault _ => s
  | .refused _ => s

/-- The state a step leaves. -/
def afterStep (s : State) : State :=
  match step s with
  | .next t => t
  | .fault _ => s
  | .refused _ => s

theorem exec_after (i : Instr) (s : State) : exec i s = .next (after i s) := by
  by_cases h : i = .reset
  · subst h; rfl
  · simp only [after, exec_eq i s h]

/-- The recorded fault: CAUSE and FINFO. -/
def faultOf (s : State) : Nat × Int := (causeNumber s, s.finfo.toInt)

/-- The answer of a function that may raise. -/
def okOr {ε α : Type} (r : Except ε α) (d : α) : α :=
  match r with
  | .ok a => a
  | .error _ => d

theorem ok_of_okOr {ε α : Type} {r : Except ε α} {d a : α} (h : okOr r d = a) (ha : a ≠ d) : r = .ok a := by
  cases r with
  | ok b => exact congrArg _ h
  | error e => exact absurd h.symm ha

/-- Reset, with values in `x1`, `x2`, `x3`. -/
def withX (v1 : Int) (v2 : Int := 0) (v3 : Int := 0) : State :=
  ((State.reset.writeX 1 v1).writeX 2 v2).writeX 3 v3

/-- Reset, with two polynomials in `p1`, `p2`. -/
def withP (a b : Poly) : State := (State.reset.writeP 1 a).writeP 2 b

/-- Reset, with staged coefficients. -/
def staged (l : List Byte) : State := { State.reset with stg := Memory.writeSeq [] 0 l, stgLen := l.length }

/-- Reset, with a text. -/
def withText (l : List CodeUnit) : State := { State.reset with txt := Memory.writeSeq [] 0 l, txtLen := l.length }

/-- Reset, with a version, a level and a segment of `n` equal bytes. -/
def withSeg (version level n : Nat) (b : Byte) : State :=
  { State.reset with
    version := BitVec.ofNat 8 version, level := BitVec.ofNat 2 level
    seg := Memory.writeSeq [] 0 (List.replicate n b), segLen := n }

/-- Reset, with the bit buffer at a length, all bits 0. -/
def withBbLen (s : State) (n : Nat) : State := { s with bb := ⟨List.replicate ((n + 7) / 8) 0, n⟩ }

/-- "HELLO WORLD". -/
def hello : List CodeUnit := [0x48, 0x45, 0x4C, 0x4C, 0x4F, 0x20, 0x57, 0x4F, 0x52, 0x4C, 0x44]

/-- A text of `n` code units 0000 at level H: `n` bytes. -/
def nulText (n : Nat) : State := { State.reset with txtLen := n, level := 3 }

/-- A faulted unit: `GF.LOG` of 0. -/
def faultedUnit : State := after (.gfLog 2 1) State.reset

/-- Version 1, level L, the empty segment: its data (part 4). -/
def dataReady : State := after .dataFin (after .dataSeg (withSeg 1 0 0 0))

/-- Its codeword stream. -/
def streamReady : State := after .rsEnc dataReady

/-- Its grid in every phase. -/
def blankGrid : State := after .gridInit streamReady
def structured : State := after (.gridStruct false 2) blankGrid
def mapped : State := after (.gridMap 2) structured
def finished : State := after .gridFin mapped

/-- The lengths at their limits, polynomials of both kinds, an unfinished byte in the bit buffer. -/
def fullUnit : State := { State.reset with
  stg := [(0, 5), (255, 7)], stgLen := 256, txt := [(4095, 0x41)], txtLen := 4096, seg := [(12290, 1)]
  segLen := 12291, p := (State.reset.p.set 0 [0, 0]).set 1 [5, 0, 7], bb := ⟨[0xFA, 0xBC, 0xD0], 20⟩
  blk := List.replicate 81 ⟨26, 19⟩, cw := List.replicate 3706 0, version := 40
  scoreN := BitVec.ofNat 32 (scoreBoundN 177), scoreF := 3132900 }

/-- A transaction put before the host's others. -/
def put (t : HostTxn) (s : State) : State := { s with port := t :: s.port }

/-- A grid drawn in the notation of 95_test_vectors.md: one number a row, column 0 the most significant bit. -/
def rowsOf (s : State) : List Nat :=
  s.grid.map fun row => row.foldl (fun n c => 2 * n + (if c = .dark then 1 else 0)) 0

/-! ## Well-formedness -/

theorem test_wellFormed_refuses_csr_numbers :
    Instr.wellFormed (.csrr 1 17) = false ∧ Instr.wellFormed (.csrr 1 16) = true ∧
    Instr.wellFormed (.csrw 0 1) = false ∧ Instr.wellFormed (.csrw 17 1) = false ∧
    Instr.wellFormed (.csrw 14 1) = false ∧ Instr.wellFormed (.csrw 15 1) = true := by decide +kernel

theorem test_wellFormed_refuses_patterns :
    Instr.wellFormed (.gridStruct false 8) = false ∧ Instr.wellFormed (.gridMap 15) = false ∧
    Instr.wellFormed (.makeimpl true 8) = false ∧ Instr.wellFormed (.makeimpl true 7) = true := by decide +kernel

/-! ## Decoding: words written out from rules R81 to R85 -/

theorem test_decode_system :
    decode 0x00000000 = .ok .nop ∧ decode 0x01F08000 = .ok (.set 15 0x8000) ∧ decode 0x02000000 = .ok .reset ∧
    decode 0x03A00010 = .ok (.csrr 10 16) ∧ decode 0x0410000C = .ok (.csrw 12 1) := ⟨rfl, rfl, rfl, rfl, rfl⟩

theorem test_decode_field_and_polynomials :
    decode 0x10100200 = .ok (.gfLog 2 1) ∧ decode 0x11C00900 = .ok (.gfExp 9 12) ∧
    decode 0x200002FF = .ok (.polyNew 2 255) ∧ decode 0x21120300 = .ok (.polyMul 3 1 2) ∧
    decode 0x22300200 = .ok (.polyMod 2 3 0) ∧ decode 0x23300E00 = .ok (.polyLen 14 3) ∧
    decode 0x242D0100 = .ok (.polyGet 1 2 13) := ⟨rfl, rfl, rfl, rfl, rfl, rfl, rfl⟩

theorem test_decode_bitstream :
    decode 0x30000000 = .ok .bbClr ∧ decode 0x31470000 = .ok (.bbPut 4 7) ∧ decode 0x32F00000 = .ok (.bbPutbit 15) ∧
    decode 0x33800600 = .ok (.bbGet 6 8) ∧ decode 0x34000000 = .ok .segEnc ∧ decode 0x35000A00 = .ok (.segLen 10) ∧
    decode 0x36000000 = .ok .segWrite ∧ decode 0x37000500 = .ok (.utf8Len 5) ∧ decode 0x38000000 = .ok .dataSeg ∧
    decode 0x39000000 = .ok .dataFin ∧ decode 0x3A100F00 = .ok (.verSel 15 1) :=
  ⟨rfl, rfl, rfl, rfl, rfl, rfl, rfl, rfl, rfl, rfl, rfl⟩

theorem test_decode_rs_and_symbolmath :
    decode 0x40000000 = .ok .rsBlocks ∧ decode 0x4100030A = .ok (.rsGen 3 10) ∧ decode 0x42000000 = .ok .rsEnc ∧
    decode 0x50200100 = .ok (.bchFmt 1 2) ∧ decode 0x51200100 = .ok (.bchVer 1 2) ∧
    decode 0x52200100 = .ok (.bchDigit 1 2) ∧ decode 0x53123400 = .ok (.maskTst 4 1 2 3) ∧
    decode 0x54000000 = .ok .score := ⟨rfl, rfl, rfl, rfl, rfl, rfl, rfl, rfl⟩

theorem test_decode_matrix :
    decode 0x60000000 = .ok .gridInit ∧ decode 0x61000083 = .ok (.gridStruct true 3) ∧
    decode 0x6200000F = .ok (.gridMap 15) ∧ decode 0x63000000 = .ok .gridFin ∧
    decode 0x6400000A = .ok (.makeimpl false 10) ∧ decode 0x65000000 = .ok .make ∧
    decode 0x66000700 = .ok (.qCount 7) ∧ decode 0x67560B00 = .ok (.qDark 11 5 6) :=
  ⟨rfl, rfl, rfl, rfl, rfl, rfl, rfl, rfl⟩

/-- Part 8: words that are no command. -/
theorem test_decode_rejects :
    decode 0x00000001 = .error (.mustBeZeroBits 0x00) ∧ decode 0x01110005 = .error (.mustBeZeroBits 0x01) ∧
    decode 0x05000000 = .error (.unassignedOp 0x05) ∧ decode 0xFFFFFFFF = .error (.unassignedOp 0xFF) ∧
    decode 0x10100201 = .error (.mustBeZeroBits 0x10) ∧ decode 0x21400100 = .error (.mustBeZeroBits 0x21) ∧
    decode 0x61000048 = .error (.mustBeZeroBits 0x61) := ⟨rfl, rfl, rfl, rfl, rfl, rfl, rfl⟩

/-- No word selects two rows of the opcode map: where both rows fix the operation code, they differ in it. -/
theorem test_rows_do_not_overlap :
    opcodeRows.Pairwise fun a b => (a.1 &&& b.1) &&& (a.2 ^^^ b.2) ≠ 0 := by decide +kernel

theorem test_encode_is_the_word :
    encode (.set 2 0xFFFF) = 0x0120FFFF ∧ encode (.csrw 5 1) = 0x04100005 ∧
    encode (.maskTst 4 1 2 3) = 0x53123400 ∧ encode (.gridStruct true 3) = 0x61000083 ∧
    encode (.qDark 11 5 6) = 0x67560B00 := by decide +kernel

/-- The host's table words. -/
theorem test_decodeTableWord : decodeTableWord 32 0x67560B00 = some (.qDark 11 5 6) ∧
    decodeTableWord 32 0x68000000 = none := by decide +kernel

/-- Rules R61, R92: the very next step runs the issued command. -/
theorem test_withFetchWord :
    (afterStep (State.reset.withFetchWord 32 0x01100005)).x[(1 : XReg)] = 5 ∧
    (afterStep (State.reset.withFetchWord 32 0x01100005)).port = [] := by decide +kernel

/-! ## ROM -/

/-- Rules R21, R100: the source's construction of EXP. -/
theorem test_exp_is_the_construction :
    (∀ i < 8, romExp i = (1 : Byte) <<< i) ∧
    ∀ i < 248, romExp (i + 8) = romExp (i + 4) ^^^ romExp (i + 3) ^^^ romExp (i + 2) ^^^ romExp i := by
  decide +kernel

/-- Rule R22: LOG is the inverse. -/
theorem test_log_is_the_inverse : ∀ i < 255, (romLog (romExp i).toNat).toNat = i := by decide +kernel

/-- Rules R24, R26, R161: the totals of every version agree at all four levels with the last column. -/
theorem test_block_totals : ∀ v ∈ List.range' 1 40, ∀ l < 4,
    some (totalCodewords (blocksOf v l)) = codewordTotals[v - 1]? := by decide +kernel

/-! ## System commands (part 8) -/

theorem test_nop : after .nop (withX 7) = withX 7 := by decide +kernel

theorem test_set_sign_extends :
    (after (.set 2 0xFFFF) State.reset).x[(2 : XReg)] = 0xFFFFFFFF ∧
    (after (.set 15 0x8000) State.reset).x[(15 : XReg)].toInt = -32768 := by decide +kernel

theorem test_reset_keeps_x_and_elements :
    after .reset fullUnit = { State.reset with
      stg := fullUnit.stg, txt := fullUnit.txt, seg := fullUnit.seg } := by decide +kernel

theorem test_reset_leaves_the_fault :
    faultedUnit.fault = true ∧ (after .reset faultedUnit).fault = false ∧ (after .nop faultedUnit).fault = true := by
  decide +kernel

theorem test_csrr_modcnt : (after (.csrr 3 8) blankGrid).x[(3 : XReg)] = 21 := by decide +kernel

theorem test_csrr_reserved :
    faultOf (after (.csrr 3 17) State.reset) = (8, 0x03300011) := by decide +kernel

theorem test_csrw_truncates :
    (after (.csrw 4 1) (withX (-1))).version = 255 ∧ (after (.csrw 5 1) (withX 4)).level = 0 := by decide +kernel

theorem test_csrw_faults :
    faultOf (after (.csrw 12 1) (withX 4097)) = (10, 4097) ∧
    faultOf (after (.csrw 0 1) (withX 0)) = (8, 0x04100000) := by decide +kernel

theorem test_illegal_words :
    faultOf (afterStep (put (.issue 0xFFFFFFFF) State.reset)) = (8, -1) ∧
    (afterStep (put (.issue 0x05000000) State.reset)).fcmd = 0x05000000 := by decide +kernel

/-! ## Field and polynomials (parts 2 and 3) -/

theorem test_gfLog :
    (after (.gfLog 2 1) (withX 3)).x[(2 : XReg)] = 25 ∧ (after (.gfLog 2 1) (withX 142)).x[(2 : XReg)] = 254 ∧
    (after (.gfLog 2 1) (withX 255)).x[(2 : XReg)] = 175 := by decide +kernel

theorem test_gfLog_faults :
    faultOf (after (.gfLog 2 1) (withX (-5))) = (1, -5) ∧ faultOf (after (.gfLog 2 1) (withX 256)) = (10, 256) ∧
    faultOf (after (.gfLog 2 1) (withX 0)) = (1, 0) := by decide +kernel

theorem test_gfExp :
    (after (.gfExp 2 1) (withX 8)).x[(2 : XReg)] = 29 ∧ (after (.gfExp 2 1) (withX 255)).x[(2 : XReg)] = 1 ∧
    (after (.gfExp 2 1) (withX 1000)).x[(2 : XReg)] = 235 := by decide +kernel

theorem test_gfExp_negative :
    (after (.gfExp 1 1) (withX (-1))).x[(1 : XReg)] = 142 ∧
    (after (.gfExp 2 1) (withX (-2147483648))).x[(2 : XReg)] = 204 := by decide +kernel

theorem test_polyNew :
    (after (.polyNew 0 0) (staged [0, 0, 5, 0, 7])).readP 0 = [5, 0, 7] ∧
    (after (.polyNew 3 2) (staged [1, 2, 3])).readP 3 = [1, 2, 3, 0, 0] ∧
    (after (.polyNew 3 2) (staged [0, 0, 0])).readP 3 = [0, 0] := by decide +kernel

theorem test_polyMul :
    (after (.polyMul 0 1 2) (withP [2, 5] [3, 7])).readP 0 = [6, 1, 27] ∧
    (after (.polyMul 1 1 2) (withP [1, 3, 2] [1, 4])).readP 1 = [1, 7, 14, 8] := by decide +kernel

theorem test_polyMul_faults :
    faultOf (after (.polyMul 0 1 2) (withP [1, 0, 1] [1, 1])) = (1, 0) ∧
    faultOf (after (.polyMul 0 1 2) (withP [] [1, 1])) = (10, 0) := by decide +kernel

theorem test_polyMod :
    (after (.polyMod 0 1 2) (withP [1, 2, 3, 0, 0] [1, 3, 2])).readP 0 = [4, 4] ∧
    (after (.polyMod 0 1 2) (withP [211, 1, 0, 0] [1, 3, 2])).readP 0 = [210] ∧
    (after (.polyMod 2 1 2) (withP [1, 0, 3] [5])).readP 2 = [] := by decide +kernel

theorem test_polyMod_short_and_faults :
    (after (.polyMod 0 1 2) (withP [7] [1, 1])).readP 0 = [7] ∧
    faultOf (after (.polyMod 0 1 2) (withP [1, 1] [])) = (10, 0) := by decide +kernel

theorem test_polyLen : (after (.polyLen 4 1) (withP [5, 0, 7] [])).x[(4 : XReg)] = 3 ∧
    (after (.polyLen 4 0) State.reset).x[(4 : XReg)] = 0 := by decide +kernel

theorem test_polyGet :
    (after (.polyGet 4 1 3) ((withP [5, 0, 7] []).writeX 3 2)).x[(4 : XReg)] = 7 ∧
    faultOf (after (.polyGet 4 1 3) ((withP [5, 0, 7] []).writeX 3 3)) = (10, 3) := by decide +kernel

/-! ## Bit buffer, segment, data, version (part 4) -/

theorem test_bbPut_is_msb_first :
    (after (.bbPut 3 2) ((after (.bbPut 1 2) (withX 5 3 0x1FF)).writeX 2 4)).bb = ⟨[0xBE], 7⟩ ∧
    (after (.bbPut 1 2) (withX 0xABCD 16)).bb = ⟨[0xAB, 0xCD], 16⟩ := by decide +kernel

theorem test_bbPut_count_faults :
    faultOf (after (.bbPut 1 2) (withX 1 33)) = (10, 33) ∧ (after (.bbPut 1 2) (withX (-1) 0)).bb = ⟨[], 0⟩ := by
  decide +kernel

theorem test_bbPutbit_any_nonzero :
    (after (.bbPutbit 1) (after (.bbPut 2 3) (withX 9 (-1) 3))).bb = ⟨[0xF0], 4⟩ ∧
    (after (.bbPutbit 2) (withX 9)).bb = ⟨[0], 1⟩ := by decide +kernel

theorem test_bbGet :
    (after (.bbGet 4 1) { withX 6 with bb := ⟨[0xBE], 7⟩ }).x[(4 : XReg)] = 1 ∧
    (after (.bbGet 4 1) { withX 1 with bb := ⟨[0xBE], 7⟩ }).x[(4 : XReg)] = 0 ∧
    faultOf (after (.bbGet 4 1) { withX 7 with bb := ⟨[0xBE], 7⟩ }) = (10, 7) := by decide +kernel

theorem test_bbClr : (after .bbClr fullUnit).bb = ⟨[], 0⟩ := by decide +kernel

theorem test_segEnc_marks_when_long :
    (after .segEnc (withText [0x68, 0xE9, 0x6C, 0x6C, 0x6F])).segment =
      [0xEF, 0xBB, 0xBF, 0x68, 0xC3, 0xA9, 0x6C, 0x6C, 0x6F] ∧
    (after .segEnc (withText [0x7F])).segment = [0x7F] := by decide +kernel

theorem test_segEnc_surrogates_one_by_one :
    (after .segEnc (withText [0xD83D, 0xDE00])).segment = [0xEF, 0xBB, 0xBF, 0xED, 0xA0, 0xBD, 0xED, 0xB8, 0x80] ∧
    (after .segEnc (withText [0x800])).segment = [0xEF, 0xBB, 0xBF, 0xE0, 0xA0, 0x80] := by decide +kernel

theorem test_utf8Len :
    (after (.utf8Len 1) (withText [0x41, 0xD83D])).x[(1 : XReg)] = 7 ∧
    (after (.utf8Len 1) (withText hello)).x[(1 : XReg)] = 11 ∧
    (after (.utf8Len 1) (withText [0x80])).x[(1 : XReg)] = 5 := by decide +kernel

theorem test_segLen : (after (.segLen 9) (withSeg 1 0 5 7)).x[(9 : XReg)] = 5 := by decide +kernel

theorem test_segWrite_straddles :
    (after .segWrite { withSeg 1 0 1 0x41 with bb := ⟨[0x40], 4⟩ }).bb = ⟨[0x44, 0x10], 12⟩ := by decide +kernel

theorem test_dataSeg :
    (after .dataSeg (withSeg 10 0 2 0x41)).bb = ⟨[0x40, 0x00, 0x24, 0x14, 0x10], 36⟩ ∧
    faultOf (after .dataSeg (withSeg 41 2 0 0)) = (7, 162) := by decide +kernel

theorem test_dataFin :
    (after .dataFin (after .dataSeg (withSeg 1 3 6 0x41))).bb =
      ⟨[0x40, 0x64, 0x14, 0x14, 0x14, 0x14, 0x14, 0x10, 0xEC], 72⟩ ∧
    (after .dataFin (after .dataSeg (withSeg 1 3 7 0x41))).bb =
      ⟨[0x40, 0x74, 0x14, 0x14, 0x14, 0x14, 0x14, 0x14, 0x10], 72⟩ := by decide +kernel

theorem test_dataFin_overflow :
    faultOf (after .dataFin (after .dataSeg (withSeg 1 3 8 0x41))) = (5, 76) ∧
    faultOf (after .dataFin (withSeg 0 0 0 0)) = (7, -4) := by decide +kernel

theorem test_verSel :
    (after (.verSel 2 1) { withX 7 with level := 3 }).x[(2 : XReg)] = 1 ∧
    (after (.verSel 2 1) { withX 8 with level := 3 }).x[(2 : XReg)] = 2 ∧
    (after (.verSel 2 1) (withX 2953)).x[(2 : XReg)] = 40 := by decide +kernel

theorem test_verSel_faults :
    faultOf (after (.verSel 2 1) (withX 2954)) = (6, 2954) ∧ faultOf (after (.verSel 2 1) (withX (-1))) = (10, -1) := by
  decide +kernel

/-! ## Reed-Solomon (part 5) -/

theorem test_rsBlocks :
    (after .rsBlocks (withSeg 5 2 0 0)).blk = [⟨33, 15⟩, ⟨33, 15⟩, ⟨34, 16⟩, ⟨34, 16⟩] ∧
    faultOf (after .rsBlocks (withSeg 41 1 0 0)) = (7, 161) := by decide +kernel

theorem test_rsGen :
    (after (.rsGen 3 7) State.reset).readP 3 = [1, 127, 122, 154, 164, 11, 68, 117] ∧
    (after (.rsGen 3 0) State.reset).readP 3 = [1] := by decide +kernel

theorem test_rsEnc_empty_text : streamReady.cw =
    [0x40, 0x00] ++ (List.replicate 8 [0xEC, 0x11]).flatten ++
    [0xEC, 0xF9, 0xAA, 0x03, 0xCB, 0x06, 0xE3, 0xD2] ∧
    streamReady.dcValid = true := by decide +kernel

theorem test_blockEc_short_remainder :
    okOr (blockEc [211, 1] 2) [] = [0, 210] ∧
    okOr (blockEc [32, 91, 11, 120, 209, 114, 220, 77, 67, 64, 236, 17, 236, 17, 236, 17] 10) [] =
      [196, 35, 39, 119, 235, 215, 231, 226, 93, 23] := by decide +kernel

/-! ## SymbolMath (part 6) -/

theorem test_bchFmt : (after (.bchFmt 2 1) (withX 11)).x[(2 : XReg)] = 0x789D ∧
    faultOf (after (.bchFmt 2 1) (withX 32)) = (10, 32) := by decide +kernel

theorem test_bchVer : (after (.bchVer 2 1) (withX 40)).x[(2 : XReg)] = 0x28C69 ∧
    faultOf (after (.bchVer 2 1) (withX 64)) = (10, 64) := by decide +kernel

theorem test_bchDigit : (after (.bchDigit 2 1) (withX 7973)).x[(2 : XReg)] = 13 ∧
    (after (.bchDigit 2 1) (withX 2147483647)).x[(2 : XReg)] = 31 ∧
    faultOf (after (.bchDigit 2 1) (withX (-1))) = (10, -1) := by decide +kernel

/-- The column (2,3) of the table, and which of the two arguments is the row. -/
theorem test_maskTst :
    ((List.range 8).map fun p => (after (.maskTst 4 1 2 3) (withX p 2 3)).x[(4 : XReg)].toNat) =
      [0, 1, 1, 0, 1, 1, 1, 0] ∧
    ((List.range 8).map fun p => (after (.maskTst 4 1 2 3) (withX p 0 1)).x[(4 : XReg)].toNat) =
      [0, 1, 0, 0, 1, 1, 1, 0] := by decide +kernel

theorem test_maskTst_faults :
    faultOf (after (.maskTst 4 1 2 3) (withX 8 177 0)) = (2, 8) ∧
    faultOf (after (.maskTst 4 1 2 3) (withX 0 177 177)) = (10, 177) := by decide +kernel

/-- A square grid of side 7 in a resolved phase, from its rows as numbers. -/
def grid7 (rows : List Nat) : State := { State.reset with
  phase := .dataMapped, modCnt := 7
  grid := rows.map fun n => (List.range 7).map fun c => GridCell.ofBool (n.testBit (6 - c)) }

/-- Rule R221's examples: the finder pattern, and a row `#.###.#` above light rows. -/
theorem test_score :
    let s := after .score (grid7 [0x7F, 0x41, 0x5D, 0x5D, 0x5D, 0x41, 0x7F])
    let t := after .score (grid7 [0x5D, 0, 0, 0, 0, 0, 0])
    (s.scoreN = 258 ∧ s.scoreF = 1700) ∧ t.scoreN = 266 ∧ t.scoreF = 3900 := by decide +kernel

/-! ## The layout engine (parts 1, 7 and 8) -/

theorem test_gridInit : (after .gridInit { State.reset with version := 40 }).modCnt = 177 ∧
    faultOf (after .gridInit { State.reset with level := 3 }) = (7, -1) := by decide +kernel

/-- The number of cells `Unset` for version 1 and for version 2. -/
theorem test_gridStruct_free_cells :
    freeCells structured.grid 21 = 208 ∧
    freeCells (after (.gridStruct true 0) (after .gridInit { State.reset with version := 2 })).grid 25 = 359 := by
  decide +kernel

theorem test_gridStruct_faults :
    faultOf (after (.gridStruct false 8) State.reset) = (2, 8) ∧
    faultOf (after (.gridStruct false 0) { State.reset with version := 1 }) = (9, 0) := by decide +kernel

/-- Scenario B's committed grid, its first and last rows. -/
theorem test_gridMap : (rowsOf mapped).take 3 = [0x1FC97F, 0x105241, 0x17485D] ∧
    (rowsOf mapped).drop 18 = [0x175A9C, 0x105834, 0x1FD69E] := by decide +kernel

theorem test_gridMap_faults :
    faultOf (after (.gridMap 1) structured) = (9, 1) ∧ faultOf (after (.gridMap 15) structured) = (2, 15) := by
  decide +kernel

theorem test_gridFin : finished.phase = .finalized ∧ finished.final = true ∧
    faultOf (after .gridFin State.reset) = (9, 0) := by decide +kernel

/-- The trial grid of mask 3 for "HELLO WORLD" from its segment. -/
theorem test_makeimpl :
    let s := after (.makeimpl true 3) { after .segEnc (withText hello) with version := 1 }
    (rowsOf s).take 4 = [0x1FC77F, 0x104641, 0x174A5D, 0x17495D] ∧ s.cw.drop 19 =
      [0xC8, 0x46, 0x26, 0x41, 0xE8, 0xF8, 0xF6] := by decide +kernel

theorem test_qCount : (after (.qCount 3) blankGrid).x[(3 : XReg)] = 21 := by decide +kernel

theorem test_qDark :
    (after (.qDark 3 1 2) { mapped with x := (withX 0 6).x }).x[(3 : XReg)] = 1 ∧
    (after (.qDark 3 1 2) { mapped with x := (withX 0 7).x }).x[(3 : XReg)] = 0 ∧
    faultOf (after (.qDark 3 1 2) (withX 5 (-1))) = (3, 5) := by decide +kernel

/-- Scenario C, with code units 0000. -/
theorem test_make_too_long :
    let t := after .make (nulText 3000)
    faultOf t = (6, 3000) ∧ t.fcmd = 0x65000000 ∧ t.level = 3 ∧ t.version = 0 ∧ t.txtLen = 3000 := by
  decide +kernel

/-- The first trial of `MAKE` for the empty text completes, for version 1 (Scenario B). -/
theorem test_make_first_trial :
    (match bodySegEnc State.reset.clearDcValid >>= resolveVersion rom with
      | .ok b => (match bodyMakeimpl rom true (maskBits 0) b with
        | .ok c => decide (b.version = 1 ∧ c.version = 1 ∧ c.dcValid = true ∧ c.fault = false)
        | .error _ => false)
      | .error _ => false) = true := by decide +kernel

/-- `MAKE` completes from reset: the empty text gives a symbol of version 1 (Scenario B). -/
theorem test_make_empty_text : ∃ t, exec .make State.reset = .next t ∧ t.fault = false ∧ t.version = 1 := by
  have h := test_make_first_trial
  split at h
  · rename_i b hb
    split at h
    · rename_i c hc
      obtain ⟨hv, hcv, hd, hf⟩ := of_decide_eq_true h
      obtain ⟨a, ha, hab⟩ := bind_eq_ok hb
      obtain ⟨t, ht, htv, htf⟩ := bodyMake_of_first_trial ha hab (by rw [hv]; rfl) hc (by rw [hcv, hv]) hd
      exact ⟨t, exec_of_ok (by decide) rfl ht, by rw [htf, hf], by rw [htv, hv]⟩
    · cases h
  · cases h

/-! ## Witnesses: states that meet the hypotheses of the obligations

Each theorem names its obligation and meets the premises of every clause, at the values where clauses meet. -/

/-- Every step of the unit answers a next state. -/
theorem step_after (s : State) : step s = .next (afterStep s) := by
  unfold afterStep
  cases h : step s with
  | next t => rfl
  | fault r => cases r
  | refused r =>
    exfalso
    unfold step perform issueWord at h
    split at h
    · cases h
    · split at h
      · split at h
        · rw [exec_after] at h; cases h
        · cases h
      all_goals cases h

theorem witness_DecodedWordIsItsOwnEncoding : decode 0x67FF0F00 = .ok (.qDark 15 15 15) := rfl

/-- A must-be-zero bit of a listed operation code, and an operation code that is not listed. -/
theorem witness_WordsOffTheMapAreIllegal :
    State.reset.fault = false ∧ (∀ row ∈ opcodeRows, selectsRow 0x00000001 row = false) ∧
    (∀ row ∈ opcodeRows, selectsRow 0x68000000 row = false) := by
  have h : opcodeRows.all (fun row => !selectsRow 0x00000001 row && !selectsRow 0x68000000 row) = true := by
    decide +kernel
  have h' := List.all_eq_true.mp h
  simp only [Bool.and_eq_true, Bool.not_eq_true'] at h'
  exact ⟨rfl, fun row hr => (h' row hr).1, fun row hr => (h' row hr).2⟩

theorem witness_StepRunsTheDecodedCommand :
    (put (.issue 0x02000000) State.reset).port = .issue 0x02000000 :: [] ∧ decode 0x02000000 = .ok .reset ∧
    State.reset.port = [] := ⟨rfl, rfl, rfl⟩

theorem witness_FaultedUnitRefusesAllButReset :
    faultedUnit.fault = true ∧ (0x02000001 : Word) ≠ 0x02000000 := by decide +kernel

theorem witness_OnlyResetLeavesTheFaultedState :
    (∃ t, step (put (.issue 0x02000000) faultedUnit) = .next t ∧ t.fault = false) ∧
    (put (.issue 0x02000000) faultedUnit).fault = true ∧
    (∃ t, step (put .hardwareReset faultedUnit) = .next t ∧ t.fault = false) ∧
    (put .hardwareReset faultedUnit).fault = true :=
  ⟨⟨_, step_after _, rfl⟩, by decide +kernel, ⟨_, step_after _, rfl⟩, by decide +kernel⟩

theorem witness_ResetClearsAllButElements : Instr.nop ≠ .reset ∧ faultedUnit.fault = true := by decide +kernel

theorem witness_HardwareResetIsResetOfArbitraryElements :
    (put .hardwareReset State.reset).port = .hardwareReset :: [] := rfl

/-- A simple command, a composite one that is neither `MAKEIMPL` nor `MAKE`, and these two. -/
theorem witness_FaultEntryRecordsAndDropsTheGrid :
    (State.reset.fault = false ∧ exec (.gfLog 2 1) State.reset = .next (after (.gfLog 2 1) State.reset) ∧
      (after (.gfLog 2 1) State.reset).fault = true ∧ Instr.composite (.gfLog 2 1) = false) ∧
    (exec .dataSeg State.reset = .next (after .dataSeg State.reset) ∧ (after .dataSeg State.reset).fault = true ∧
      Instr.writesSeg .dataSeg = false ∧ Instr.writesCw .dataSeg = false ∧ Instr.isMakeimpl .dataSeg = false ∧
      Instr.dataSeg ≠ .make) ∧
    (exec .rsEnc State.reset = .next (after .rsEnc State.reset) ∧ (after .rsEnc State.reset).fault = true ∧
      Instr.writesBb .rsEnc = false) ∧
    (exec .make { State.reset with version := 41 } = .next (after .make { State.reset with version := 41 }) ∧
      (after .make { State.reset with version := 41 }).fault = true) ∧
    (exec (.makeimpl true 8) State.reset = .next (after (.makeimpl true 8) State.reset) ∧
      (after (.makeimpl true 8) State.reset).fault = true ∧ Instr.makeimpl true 8 ≠ .make) :=
  ⟨⟨rfl, exec_after _ _, by decide +kernel⟩, ⟨exec_after _ _, by decide +kernel⟩, ⟨exec_after _ _, by decide +kernel⟩,
    ⟨exec_after _ _, by decide +kernel⟩, ⟨exec_after _ _, by decide +kernel⟩⟩

theorem witness_CommandsRaiseOnlyTheirListedCauses :
    State.reset.buffersBounded ∧ State.reset.fault = false ∧
    exec (.gfLog 2 1) State.reset = .next (after (.gfLog 2 1) State.reset) ∧
    (after (.gfLog 2 1) State.reset).fault = true :=
  ⟨by decide +kernel, rfl, exec_after _ _, by decide +kernel⟩

/-- Every length at its capacity. -/
theorem witness_BuffersStayWithinCapacity :
    (put (.issue 0x32000000) fullUnit).buffersBounded ∧ (put (.issue 0x32000000) fullUnit).blocksValid ∧
    step (put (.issue 0x32000000) fullUnit) = .next (afterStep (put (.issue 0x32000000) fullUnit)) :=
  ⟨by decide +kernel, by decide +kernel, step_after _⟩

/-- A write of the last element of SEG. -/
theorem witness_MemoriesStayCanonical :
    (put (.writeSeg 12290 0) fullUnit).memoriesCanonical ∧
    step (put (.writeSeg 12290 0) fullUnit) = .next (afterStep (put (.writeSeg 12290 0) fullUnit)) :=
  ⟨by decide +kernel, step_after _⟩

/-- A register of zeros only and one with a non-zero leader; `POLY.NEW p0, 0` of 256 coefficients. -/
theorem witness_PolynomialRegistersStayConstructed :
    (put (.issue 0x20000000) fullUnit).polysConstructed ∧
    step (put (.issue 0x20000000) fullUnit) = .next (afterStep (put (.issue 0x20000000) fullUnit)) ∧
    ((afterStep (put (.issue 0x20000000) fullUnit)).readP 0).length = 256 :=
  ⟨by decide +kernel, step_after _, by decide +kernel⟩

theorem witness_BitBufferStaysWellFormedAndAppendOnly :
    (put (.issue 0x32000000) fullUnit).bb.wellFormed ∧
    step (put (.issue 0x32000000) fullUnit) = .next (afterStep (put (.issue 0x32000000) fullUnit)) ∧
    fullUnit.fault = false ∧ exec (.bbPutbit 0) fullUnit = .next (after (.bbPutbit 0) fullUnit) ∧
    (after (.bbPutbit 0) fullUnit).fault = false ∧ Instr.bbPutbit 0 ≠ .bbClr ∧ Instr.bbPutbit 0 ≠ .reset ∧
    (Instr.bbPutbit 0).isMakeimpl = false ∧ Instr.bbPutbit 0 ≠ .make :=
  ⟨by decide +kernel, step_after _, rfl, exec_after _ _, by decide +kernel⟩

/-- A grid in each of the four phases. -/
theorem witness_GridStaysAsItsPhaseSays :
    (blankGrid.gridMatchesPhase ∧ blankGrid.phase = .empty ∧ blankGrid.modCnt = 21) ∧
    (structured.gridMatchesPhase ∧ structured.phase = .structuralPatternsPlaced) ∧
    (mapped.gridMatchesPhase ∧ mapped.phase = .dataMapped) ∧
    (finished.gridMatchesPhase ∧ finished.phase = .finalized) ∧
    step structured = .next (afterStep structured) :=
  ⟨by decide +kernel, by decide +kernel, by decide +kernel, by decide +kernel, step_after _⟩

theorem witness_FaultRecordStaysConsistent :
    faultedUnit.faultRecorded ∧ State.reset.faultRecorded ∧ step faultedUnit = .next (afterStep faultedUnit) :=
  ⟨by decide +kernel, by decide +kernel, step_after _⟩

/-- A unit with a valid stream, and one without. -/
theorem witness_ValidStreamIsTheStreamOfTheBitBuffer :
    (streamReady.dcValid = true ∧ streamReady.streamValid) ∧ State.reset.streamValid ∧
    step streamReady = .next (afterStep streamReady) := by
  refine ⟨⟨by decide +kernel, fun _ => ⟨[⟨26, 19⟩], ?_, by decide +kernel, ?_⟩⟩, (fun h => by cases h), step_after _⟩
  · exact ok_of_okOr (d := []) (by decide +kernel) (by decide)
  · exact ok_of_okOr (d := []) (by decide +kernel) (by decide +kernel)

theorem witness_ScoresStayBounded :
    fullUnit.gridMatchesPhase ∧ fullUnit.scoresBounded ∧ step fullUnit = .next (afterStep fullUnit) :=
  ⟨by decide +kernel, by decide +kernel, step_after _⟩

/-- A fault, and each command of the table completing; a wrong phase for each of the three steps. -/
theorem witness_PhaseMovesOnlyAsListed :
    (after (.gfLog 2 1) State.reset).fault = true ∧
    (streamReady.fault = false ∧ blankGrid.fault = false ∧ structured.fault = false ∧ mapped.fault = false ∧
      finished.fault = false ∧ (after (.makeimpl false 7) streamReady).fault = false ∧
      (after .reset finished).fault = false ∧ (after .nop finished).fault = false) ∧
    (∃ t, exec .make State.reset = .next t ∧ t.fault = false) ∧
    ((7 : BitVec 4).toNat < 8 ∧ structured.phase ≠ .empty ∧ State.reset.phase ≠ .structuralPatternsPlaced ∧
      finished.phase ≠ .dataMapped) :=
  ⟨by decide +kernel, by decide +kernel, test_make_empty_text.imp fun _ h => ⟨h.1, h.2.1⟩, by decide +kernel⟩

theorem witness_CommandsWriteOnlyTheirOutputs :
    exec (.gfLog 15 1) (withX 1) = .next (after (.gfLog 15 1) (withX 1)) ∧
    (Instr.gfLog 15 1).scalarDest ≠ some 14 ∧ (Instr.gfLog 15 1).polyDest ≠ some 0 ∧ Instr.gfLog 15 1 ≠ .reset ∧
    (∀ csr ra, Instr.gfLog 15 1 ≠ .csrw csr ra) ∧ Instr.gfLog 15 1 ≠ .make ∧ (Instr.gfLog 15 1).writesSeg = false ∧
    Instr.gfLog 15 1 ≠ .rsBlocks ∧ (Instr.gfLog 15 1).writesBb = false ∧ (Instr.gfLog 15 1).writesCw = false ∧
    (Instr.gfLog 15 1).writesGrid = false ∧ (after (.gfLog 15 1) (withX 1)).fault = (withX 1).fault ∧
    (Instr.gfLog 15 1).isMakeimpl = false ∧ (∀ test mask, Instr.gfLog 15 1 ≠ .gridStruct test mask) ∧
    Instr.gfLog 15 1 ≠ .score :=
  ⟨exec_after _ _, by decide, by decide, by decide, (fun _ _ h => by cases h), by decide, by decide, by decide,
    by decide, by decide, by decide, by decide +kernel, by decide, (fun _ _ h => by cases h), by decide⟩

/-- A fault; a command that sets the flag, and one of each kind that clears or keeps it. -/
theorem witness_StreamFlagHasItsListedWriters :
    [after (.gfLog 2 1) State.reset, after (.makeimpl false 0) State.reset].all (·.fault) = true ∧
    [dataReady, streamReady, after (.makeimpl false 0) streamReady, after .bbClr streamReady,
      after (.csrw 13 1) streamReady, after (.csrw 12 1) streamReady, after .nop streamReady,
      after .reset streamReady].any (·.fault) = false ∧ ∃ t, exec .make State.reset = .next t ∧ t.fault = false :=
  ⟨by decide +kernel, by decide +kernel, test_make_empty_text.imp fun _ h => ⟨h.1, h.2.1⟩⟩

/-- Each kind of write, at the last index or value of its space and at the first one past it. -/
def boundaryWrites : List HostTxn :=
  [.writeX 15 1, .writeX 16 1, .writeStg 255 1, .writeStg 256 1, .writeTxt 4095 1, .writeTxt 4096 1,
   .writeSeg 12290 1, .writeSeg 12291 1] ++
  [.writeCsr 3 1, .writeCsr 4 1, .writeCsr 5 1, .writeCsr 6 1, .writeCsr 12 4096, .writeCsr 12 4097,
   .writeCsr 13 12291, .writeCsr 13 12292, .writeCsr 15 256, .writeCsr 15 257, .writeCsr 16 1] ++
  [.writeReadOnly (.p 3) 0 1, .writeReadOnly .bb 0 1, .writeReadOnly .blk 0 1, .writeReadOnly .cw 0 1,
   .writeReadOnly .grid 0 1, .writeReadOnly .rom 0 1]

/-- The spaces a host can name. -/
def spaces : List Space := [.x, .csr, .p 3, .stg, .txt, .seg, .bb, .blk, .cw, .grid, .rom]

/-- A read of every space at the first index outside its capacity. -/
def outsideReads : List HostTxn := spaces.map fun sp => .read sp (readCapacity sp)

theorem witness_HostAccessesHaveTheirListedEffects :
    (∀ t ∈ boundaryWrites ++ outsideReads, (put t State.reset).port = t :: []) ∧
    ∀ sp ∈ spaces, readCapacity sp ≤ readCapacity sp := ⟨fun _ _ => rfl, fun _ _ => Nat.le_refl _⟩

/-- Each space that the host can read, at the last index of its capacity and at the first one past it; the last index of
a value and the first behind it. -/
theorem witness_HostReadsFindWhatWasWritten :
    fullUnit.memoriesCanonical ∧
    (∀ sp ∈ spaces, ∀ k, (put (.read sp k) fullUnit).port = .read sp k :: []) ∧
    ((spaces.map readCapacity).filter (0 < ·)).length = 9 ∧
    ((fullUnit.readP 1)[2]? = some 7 ∧ (fullUnit.readP 1)[3]? = none ∧ fullUnit.bb.bytes[2]? = some 0xD0 ∧
      fullUnit.bb.bytes[3]? = none ∧ fullUnit.blk[80]? = some ⟨26, 19⟩ ∧ fullUnit.cw[3705]? = some 0) ∧
    (255 < fullUnit.stgLen ∧ 4095 < fullUnit.txtLen ∧ 12290 < fullUnit.segLen ∧ State.reset.stgLen ≤ 0) :=
  ⟨by decide +kernel, fun _ _ _ => rfl, by decide, by decide +kernel, by decide⟩

theorem witness_NopAndSetDoAsNamed : State.reset.fault = false := rfl

theorem witness_CsrrReadsTheNumberedRegister :
    State.reset.fault = false ∧ (16 : BitVec 16).toNat ≤ 16 ∧ 16 < (17 : BitVec 16).toNat := by decide

theorem witness_CsrwWritesTheFiveWritableRegisters :
    (withX 0).fault = false ∧ (withX 0).x[(1 : XReg)].toInt = 0 ∧ (withX 4096).x[(1 : XReg)].toInt = 4096 ∧
    (withX 4097).x[(1 : XReg)].toInt = 4097 ∧ (withX 12291).x[(1 : XReg)].toInt = 12291 ∧
    (withX 12292).x[(1 : XReg)].toInt = 12292 ∧ (withX 256).x[(1 : XReg)].toInt = 256 ∧
    (withX 257).x[(1 : XReg)].toInt = 257 ∧ (withX (-1)).x[(1 : XReg)].toInt = -1 ∧
    (16 : BitVec 16) ≠ 4 ∧ (16 : BitVec 16) ≠ 5 ∧ (16 : BitVec 16) ≠ 12 ∧ (16 : BitVec 16) ≠ 13 ∧
    (16 : BitVec 16) ≠ 15 := by decide

theorem witness_GfLogFindsTheExponent :
    (withX 0).fault = false ∧ (withX 0).x[(1 : XReg)].toInt = 0 ∧ (withX 1).x[(1 : XReg)].toInt = 1 ∧
    (withX 255).x[(1 : XReg)].toInt = 255 ∧ (withX 256).x[(1 : XReg)].toInt = 256 := by decide

theorem witness_GfExpIsThePowerOfTwo : (withX (-1)).fault = false := by decide

/-- 256 coefficients with a non-zero leader: a shift of 0 fits, one of 1 does not. -/
theorem witness_PolyNewStripsAndShifts :
    fullUnit.fault = false ∧ ((List.range fullUnit.stgLen).map fullUnit.stg.read).head? = some 5 ∧
    (((List.range fullUnit.stgLen).map fullUnit.stg.read) ++ List.replicate 0 0).length = 256 ∧
    (((List.range fullUnit.stgLen).map fullUnit.stg.read) ++ List.replicate 1 0).length = 257 := by decide +kernel

/-- Operands whose product has 256 and 257 coefficients, an empty one, and one with a zero. -/
theorem witness_PolyMulIsTheProduct :
    (withP [] [1]).fault = false ∧ (withP [] [1]).readP 1 = [] ∧ 0 ∈ (withP [1, 0] [1]).readP 1 ∧
    (withP (List.replicate 128 1) (List.replicate 129 1)).fault = false ∧
    0 ∉ List.replicate 128 (1 : Byte) ∧ 0 ∉ List.replicate 129 (1 : Byte) ∧
    (withP (List.replicate 128 1) (List.replicate 129 1)).readP 1 = List.replicate 128 1 ∧
    (withP (List.replicate 128 1) (List.replicate 129 1)).readP 2 = List.replicate 129 1 ∧
    128 + 129 - 1 = 256 ∧ 129 + 129 - 1 = 257 := by decide +kernel

theorem witness_PolyModIsTheRemainder :
    (withP [1] []).fault = false ∧ (withP [1] []).readP 2 = [] ∧
    ((withP [7] [1, 1]).readP 1).length < ((withP [7] [1, 1]).readP 2).length ∧
    ((withP [0, 1] [1, 1]).readP 1).head? = some 0 ∧ 0 ∈ (withP [5, 1] [1, 0]).readP 2 ∧
    ((withP [1, 2] [1, 1]).readP 2 ≠ [] ∧
      ((withP [1, 2] [1, 1]).readP 2).length ≤ ((withP [1, 2] [1, 1]).readP 1).length ∧
      ((withP [1, 2] [1, 1]).readP 1).head? ≠ some 0 ∧ 0 ∉ (withP [1, 2] [1, 1]).readP 2) := by decide +kernel

theorem witness_PolyAndBitReadsAnswerTheIndexedValue :
    fullUnit.fault = false ∧ (fullUnit.readP 1)[(2 : Int).toNat]? = some 7 ∧
    ((fullUnit.readP 1).length : Int) ≤ 3 ∧ (bits fullUnit.bb)[(19 : Int).toNat]? = some true ∧
    (fullUnit.bb.len : Int) ≤ 20 ∧ (withX (-1)).x[(1 : XReg)].toInt = -1 := by decide +kernel

theorem witness_ClearAndCountCommandsDoAsNamed : fullUnit.fault = false := rfl

/-- A buffer of zeros is well formed at any length. -/
theorem wellFormed_withBbLen (s : State) (n : Nat) : (withBbLen s n).bb.wellFormed := by
  refine ⟨by simp [withBbLen], fun k _ _ => ?_⟩
  simp only [withBbLen, BitBuffer.get, List.getD_eq_getElem?_getD, List.getElem?_replicate]
  split <;> simp

/-- 98320 bits in use: 32 more fit, and one bit further they do not; the last bit fits a buffer of 98351. -/
theorem witness_BitsAreAppendedInOrder :
    ((withBbLen (withX 7 32) 98320).fault = false ∧ (withBbLen (withX 7 32) 98320).bb.wellFormed) ∧
    ((withX 7 32).x[(2 : XReg)].toInt = 32 ∧ (withX 7 33).x[(2 : XReg)].toInt = 33 ∧
      (withX 7 0).x[(2 : XReg)].toInt = 0 ∧ (withX 7 (-1)).x[(2 : XReg)].toInt = -1) ∧
    ((withBbLen (withX 7 32) 98320).bb.len = 98320 ∧ 98320 + 32 = 8 * 12294) ∧
    ((withBbLen (withX 7 32) 98321).bb.wellFormed ∧ 8 * 12294 < 98321 + 32) ∧
    ((withBbLen (withX 7) 98351).bb.len + 1 = 8 * 12294 ∧ 8 * 12294 < (withBbLen (withX 7) 98352).bb.len + 1) :=
  ⟨⟨rfl, wellFormed_withBbLen _ _⟩, by decide, ⟨rfl, rfl⟩, ⟨wellFormed_withBbLen _ _, by decide⟩, rfl,
    Nat.lt_succ_self _⟩

theorem witness_SegEncStoresTheEncodedText :
    fullUnit.fault = false ∧ fullUnit.buffersBounded ∧ fullUnit.memoriesCanonical := by decide +kernel

theorem witness_Utf8LenIsTheSegmentLength : (withText hello).fault = false := rfl

theorem witness_SegWriteAppendsTheSegment :
    ((withBbLen (withSeg 1 0 1 0) 98344).fault = false ∧ (withBbLen (withSeg 1 0 1 0) 98344).bb.wellFormed) ∧
    (withBbLen (withSeg 1 0 1 0) 98344).bb.len + 8 * (withSeg 1 0 1 0).segLen = 8 * 12294 ∧
    ((withBbLen (withSeg 1 0 1 0) 98345).bb.wellFormed ∧
      8 * 12294 < (withBbLen (withSeg 1 0 1 0) 98345).bb.len + 8 * (withSeg 1 0 1 0).segLen) :=
  ⟨⟨rfl, wellFormed_withBbLen _ _⟩, rfl, wellFormed_withBbLen _ _, Nat.lt_succ_self _⟩

/-- The versions 0, 1, 40 and 41; a segment of one byte that just fits and one that does not. -/
theorem witness_DataSegAppendsHeaderAndPayload :
    (¬ versionLegal (withSeg 0 0 1 0) ∧ ¬ versionLegal (withSeg 41 0 1 0) ∧ versionLegal (withSeg 1 0 1 0) ∧
      versionLegal (withSeg 40 0 1 0)) ∧
    ((withBbLen (withSeg 1 0 1 0) 98332).fault = false ∧ (withBbLen (withSeg 1 0 1 0) 98332).bb.wellFormed ∧
      (withBbLen (withSeg 1 0 1 0) 98332).bb.len + segmentBits (withSeg 1 0 1 0) = 8 * 12294) ∧
    (withBbLen (withSeg 1 0 1 0) 98333).bb.wellFormed ∧
      8 * 12294 < (withBbLen (withSeg 1 0 1 0) 98333).bb.len + segmentBits (withSeg 1 0 1 0) :=
  ⟨by decide, ⟨rfl, wellFormed_withBbLen _ _, rfl⟩, wellFormed_withBbLen _ _, Nat.lt_succ_self _⟩

/-- 152 and 153 bits against the 19 data codewords of version 1, level L. -/
theorem witness_DataFinPadsToTheDataCapacity :
    (withBbLen (withSeg 1 0 1 0) 152).fault = false ∧ (withBbLen (withSeg 1 0 1 0) 152).bb.wellFormed ∧
    (withBbLen (withSeg 1 0 1 0) 153).bb.wellFormed ∧
    (8 * dataWords (withSeg 1 0 1 0) = 152 ∧ versionLegal (withSeg 1 0 1 0) ∧ ¬ versionLegal (withSeg 41 0 1 0)) :=
  ⟨rfl, wellFormed_withBbLen _ _, wellFormed_withBbLen _ _, by decide +kernel⟩

theorem witness_VerSelGivesTheSmallestVersion :
    (withX 0).fault = false ∧ (withX (-1)).x[(1 : XReg)].toInt = -1 ∧ (withX 0).x[(1 : XReg)].toInt = 0 ∧
    (withX 2953).x[(1 : XReg)].toInt = capacity 40 0 ∧ (withX 2954).x[(1 : XReg)].toInt = capacity 40 0 + 1 := by
  decide +kernel

theorem witness_CapacityAgreesWithTheBlockTable : smallestVersion 2 11 1 ∧ smallestVersion 3 11 2 := by
  refine ⟨⟨by decide, by decide, by decide, fun u h1 h2 => by omega⟩,
    ⟨by decide, by decide, by decide, fun u h1 h2 => ?_⟩⟩
  obtain rfl : u = 1 := by omega
  decide

theorem witness_RsBlocksListsTheBlocks :
    State.reset.fault = false ∧ ¬ versionLegal (withSeg 0 0 0 0) ∧ ¬ versionLegal (withSeg 41 0 0 0) ∧
    versionLegal (withSeg 1 0 0 0) ∧ versionLegal (withSeg 40 3 0 0) := by decide

theorem witness_RsGenHasTheRootsOfTheGenerator : State.reset.fault = false := rfl

theorem witness_RsEncAppendsTheCheckBytes :
    (dataReady.fault = false ∧ dataReady.bb.wellFormed ∧ versionLegal dataReady ∧
      dataReady.bb.len = 8 * dataWords dataReady) ∧
    ((withSeg 1 0 0 0).bb.wellFormed ∧ (withSeg 1 0 0 0).bb.len ≠ 8 * dataWords (withSeg 1 0 0 0)) ∧
    ¬ versionLegal State.reset := by decide +kernel

theorem witness_BchCommandsGiveThePrintedWords :
    State.reset.fault = false ∧ ∀ v ∈ [(-1 : Int), 0, 31, 32, 63, 64], (withX v).x[(1 : XReg)].toInt = v := by decide

/-- Each end of the three ranges; for each predicate a pair of coordinates where it is true. -/
theorem witness_MaskTstGivesTheEightPredicates :
    State.reset.fault = false ∧ ∀ v ∈ [(-1 : Int), 0, 7, 8, 176, 177],
      (withX v v v).x[(1 : XReg)].toInt = v ∧ (withX v v v).x[(2 : XReg)].toInt = v ∧
      (withX v v v).x[(3 : XReg)].toInt = v := by decide +kernel

theorem witness_ScoreCountsTheFourPenalties :
    (mapped.fault = false ∧ mapped.gridMatchesPhase ∧ mapped.phase = .dataMapped) ∧
    (finished.gridMatchesPhase ∧ finished.phase = .finalized) ∧
    (State.reset.gridMatchesPhase ∧ State.reset.phase = .empty) ∧
    (structured.gridMatchesPhase ∧ structured.phase = .structuralPatternsPlaced) :=
  ⟨⟨by decide +kernel, witness_GridStaysAsItsPhaseSays.2.2.1⟩, witness_GridStaysAsItsPhaseSays.2.2.2.1,
    by decide +kernel, witness_GridStaysAsItsPhaseSays.2.1⟩

theorem witness_GridInitAllocatesABlankGrid :
    State.reset.fault = false ∧ ¬ versionLegal (withSeg 0 0 0 0) ∧ ¬ versionLegal (withSeg 41 0 0 0) ∧
    versionLegal (withSeg 1 0 0 0) ∧ versionLegal (withSeg 40 3 0 0) := by decide

/-- The patterns 7 and 8; no grid, a later phase, a grid of another version, and a grid that is right. -/
theorem witness_GridStructCompletesOrFaults :
    State.reset.fault = false ∧ 8 ≤ (8 : BitVec 4).toNat ∧ (7 : BitVec 4).toNat < 8 ∧ structured.phase ≠ .empty ∧
    State.reset.modCnt = 0 ∧ blankGrid.modCnt ≠ ({ blankGrid with version := 2 } : State).version.toNat * 4 + 17 ∧
    (blankGrid.fault = false ∧ (7 : BitVec 4).toNat = (7 : Fin 8).val ∧ blankGrid.phase = .empty ∧
      blankGrid.modCnt ≠ 0 ∧ blankGrid.modCnt = blankGrid.version.toNat * 4 + 17) := by decide +kernel

/-- Version 1 (no alignment pattern, no version block) and version 7 (both), each completing. -/
theorem witness_GridStructPlacesTheStructuralPatterns :
    let seven := after .gridInit { State.reset with version := 7 }
    (blankGrid.fault = false ∧ blankGrid.gridMatchesPhase ∧ structured.fault = false ∧
      exec (.gridStruct false 2) blankGrid = .next structured) ∧
    (seven.fault = false ∧ seven.gridMatchesPhase ∧ (after (.gridStruct true 0) seven).fault = false ∧
      exec (.gridStruct true 0) seven = .next (after (.gridStruct true 0) seven) ∧ 7 ≤ seven.version.toNat) :=
  ⟨⟨by decide +kernel, witness_GridStaysAsItsPhaseSays.1.1, by decide +kernel, exec_after _ _⟩,
    by decide +kernel, by decide +kernel, by decide +kernel, exec_after _ _, by decide +kernel⟩

/-- A state the mapping completes in, and one wrong in each of the four checks. -/
theorem witness_GridMapPlacesTheStream :
    (structured.fault = false ∧ structured.gridMatchesPhase) ∧
    (8 ≤ (8 : BitVec 4).toNat ∧ (7 : BitVec 4).toNat < 8 ∧ (7 : BitVec 4).toNat ≠ structured.mask.val ∧
      blankGrid.phase ≠ .structuralPatternsPlaced ∧
      structured.modCnt ≠ ({ structured with version := 2 } : State).version.toNat * 4 + 17 ∧
      ({ structured with dcValid := false } : State).dcValid = false) ∧
    (structured.phase = .structuralPatternsPlaced ∧ structured.modCnt = structured.version.toNat * 4 + 17 ∧
      (2 : BitVec 4).toNat = structured.mask.val ∧ structured.dcValid = true) :=
  ⟨⟨by decide +kernel, witness_GridStaysAsItsPhaseSays.2.1.1⟩, by decide +kernel, by decide +kernel⟩

theorem witness_CommitAndQueryTheGrid :
    (mapped.fault = false ∧ mapped.phase = .dataMapped ∧ mapped.testF = false) ∧
    (finished.phase ≠ .dataMapped ∧ ({ mapped with testF := true } : State).testF = true) ∧
    (mapped.modCnt = 21 ∧ structured.phase = .structuralPatternsPlaced ∧ State.reset.modCnt = 0) ∧
    ∀ v ∈ [(-1 : Int), 0, 20, 21], (withX v v).x[(1 : XReg)].toInt = v ∧ (withX v v).x[(2 : XReg)].toInt = v := by
  decide +kernel

/-- A valid stream; none, with 17 bytes that fit version 1 at level L and 18 that do not; a wrong version. -/
theorem witness_MakeimplBuildsAMappedGrid :
    (streamReady.fault = false ∧ streamReady.buffersBounded ∧ versionLegal streamReady ∧
      streamReady.dcValid = true) ∧
    ((withSeg 1 0 17 1).fault = false ∧ (withSeg 1 0 17 1).buffersBounded ∧ versionLegal (withSeg 1 0 17 1) ∧
      (withSeg 1 0 17 1).dcValid = false ∧ segmentBits (withSeg 1 0 17 1) ≤ 8 * dataWords (withSeg 1 0 17 1)) ∧
    8 * dataWords (withSeg 1 0 18 1) < segmentBits (withSeg 1 0 18 1) ∧
    (¬ versionLegal (withSeg 0 0 0 0) ∧ (7 : BitVec 4).toNat < 8 ∧ 8 ≤ (8 : BitVec 4).toNat) := by decide +kernel

/-- Both sequences complete. -/
theorem witness_MakeimplIsItsSequenceOfCommands :
    (∃ t, runCommands [.gridInit, .gridStruct true 7, .gridMap 7] streamReady = .next t ∧ t.fault = false) ∧
    (streamReady.fault = false ∧ streamReady.dcValid = true) ∧
    (∃ t, runCommands [.gridInit, .gridStruct true 7, .bbClr, .dataSeg, .dataFin, .rsEnc, .gridMap 7]
      (withSeg 1 0 17 1) = .next t ∧ t.fault = false) ∧
    (withSeg 1 0 17 1).fault = false ∧ (withSeg 1 0 17 1).dcValid = false := by
  simp only [runCommands, exec_after]
  exact ⟨⟨_, rfl, by decide +kernel⟩, by decide +kernel, ⟨_, rfl, by decide +kernel⟩, rfl, rfl⟩

/-- Level H: 1273 bytes fit version 40 and 1274 do not; an override 1 holds 7 bytes and not 8; an override 41. -/
theorem witness_MakeBuildsTheSymbol :
    let override (v : BitVec 8) (n : Nat) : State := { nulText n with version := v }
    let bytes (s : State) := segmentOf ((List.range s.txtLen).map s.txt.read)
    ((nulText 1273).fault = false ∧ (nulText 1273).buffersBounded ∧ (nulText 1273).memoriesCanonical) ∧
    ((nulText 1273).version = 0 ∧ (bytes (nulText 1273)).length = capacity 40 3) ∧
    (bytes (nulText 1274)).length = capacity 40 3 + 1 ∧
    (versionLegal (override 1 7) ∧ 4 + lengthFieldWidth 1 + 8 * (bytes (override 1 7)).length ≤ 8 * dataWords (override 1 7)) ∧
    8 * dataWords (override 1 8) < 4 + lengthFieldWidth 1 + 8 * (bytes (override 1 8)).length ∧
    ((override 41 7).version ≠ 0 ∧ ¬ versionLegal (override 41 7)) := by decide +kernel

theorem witness_MakeCommitsTheBestMask :
    State.reset.fault = false ∧ ∃ t, exec .make State.reset = .next t ∧ t.fault = false :=
  ⟨rfl, test_make_empty_text.imp fun _ h => ⟨h.1, h.2.1⟩⟩

/-- Two units with one text, level and version and different segments, bit buffers and registers. -/
theorem witness_MakeDependsOnTextLevelVersionOnly :
    let other : State := { fullUnit with txtLen := 0, version := 0 }
    (State.reset.memoriesCanonical ∧ other.memoriesCanonical) ∧ State.reset.fault = false ∧ other.fault = false ∧
    State.reset.txtLen = other.txtLen ∧ State.reset.level = other.level ∧ State.reset.version = other.version ∧
    other.seg ≠ State.reset.seg ∧ (∀ k < State.reset.txtLen, State.reset.txt.read k = other.txt.read k) ∧
    exec .make State.reset = .next (after .make State.reset) ∧ exec .make other = .next (after .make other) :=
  ⟨by decide +kernel, rfl, rfl, rfl, rfl, rfl, by decide, (fun k h => absurd h (Nat.not_lt_zero k)), exec_after _ _,
    exec_after _ _⟩

/-- Reads of three spaces, one of them outside its capacity, before a read behind the bits in use. -/
theorem witness_HostReadsAreIdempotent :
    let reads : List (Space × Nat) := [(.bb, 3), (.cw, 3706), (.txt, 0)]
    ({ fullUnit with port := readsOf reads ++ [.read .bb 3] } : State).port = readsOf reads ++ .read .bb 3 :: [] := rfl

end Sys2Proof.Tests
end

section
/-! SUPPORT. The lengths of what the arithmetic makes (rules R120 to R124, R182 to R185): a remainder is shorter than
its divisor, so a block's error-correction codewords fit their count and the stream fits its blocks. -/

namespace Sys2Proof.Machine

theorem poly_length_le (raw : List Byte) (shift : Nat) : (poly raw shift).length ≤ raw.length + shift := by
  simpa [poly, zeros] using (List.dropWhile_sublist _).length_le

/-- A leading zero is stripped. -/
theorem poly_length_lt {raw : List Byte} (hn : raw ≠ []) (h0 : raw.headD 0 = 0) :
    (poly raw 0).length < raw.length := by
  cases raw with
  | nil => exact absurd rfl hn
  | cons c raw =>
    obtain rfl : c = 0 := h0
    simpa [poly, zeros, Nat.lt_succ_iff] using (List.dropWhile_sublist _).length_le

@[simp] theorem xorAt_length (num : Poly) (k : Nat) (v : Byte) : (xorAt num k v).length = num.length := by
  simp [xorAt]

/-! ## The product and the generator -/

theorem pmulRow_length {ai : Byte} {b : List Byte} {k : Nat} {num c : Poly} (h : pmulRow ai b k num = .ok c) :
    c.length = num.length := by
  induction b generalizing k num with
  | nil => cases h; rfl
  | cons bj b ih =>
    obtain ⟨t, -, h⟩ := bind_eq_ok h
    rw [ih h, xorAt_length]

theorem pmulRows_length {a b : List Byte} {i : Nat} {num c : Poly} (h : pmulRows b a i num = .ok c) :
    c.length = num.length := by
  induction a generalizing i num with
  | nil => cases h; rfl
  | cons ai a ih =>
    obtain ⟨row, hrow, h⟩ := bind_eq_ok h
    rw [ih h, pmulRow_length hrow]

theorem pmul_length_le {a b c : Poly} (h : pmul a b = .ok c) : c.length ≤ a.length + b.length - 1 := by
  unfold pmul at h
  split at h
  · cases h
  · obtain ⟨num, hnum, h⟩ := bind_eq_ok h
    cases h
    simpa [pmulRows_length hnum, zeros] using poly_length_le num 0

theorem generatorFrom_length_le {n i : Nat} {g c : Poly} (h : generatorFrom n i g = .ok c) :
    c.length ≤ g.length + n := by
  induction n generalizing i g with
  | zero => cases h; rfl
  | succ n ih =>
    obtain ⟨g', hg, h⟩ := bind_eq_ok h
    have hl : g'.length ≤ g.length + 2 - 1 := pmul_length_le hg
    have := ih h
    omega

theorem generator_length_le {ec : Nat} {g : Poly} (h : generator ec = .ok g) : g.length ≤ ec + 1 := by
  simpa [Nat.add_comm] using generatorFrom_length_le h

/-! ## The remainder -/

theorem pmodXor_length {ratio : Int} {e : List Byte} {i : Nat} {num c : Poly} (h : pmodXor ratio e i num = .ok c) :
    c.length = num.length := by
  induction e generalizing i num with
  | nil => cases h; rfl
  | cons ei e ih =>
    obtain ⟨le, -, h⟩ := bind_eq_ok h
    rw [ih h, xorAt_length]

/-- The scaling loop behind position 0 leaves the leading coefficient. -/
theorem pmodXor_head {ratio : Int} {e : List Byte} {i : Nat} {num c : Poly}
    (h : pmodXor ratio e (i + 1) num = .ok c) : c.headD 0 = num.headD 0 := by
  induction e generalizing i num with
  | nil => cases h; rfl
  | cons ei e ih =>
    obtain ⟨le, -, h⟩ := bind_eq_ok h
    rw [ih h]
    cases num <;> rfl

/-- A pass cancels the leading coefficient (rule R124(a)). -/
theorem pmodPass_length_lt {a e c : Poly} (ha : a ≠ []) (he : e ≠ []) (h : pmodPass a e = .ok c) :
    c.length < a.length := by
  cases a with
  | nil => exact absurd rfl ha
  | cons a0 a =>
  cases e with
  | nil => exact absurd rfl he
  | cons e0 e =>
    obtain ⟨la, hla, h⟩ := bind_eq_ok h
    obtain ⟨le, hle, h⟩ := bind_eq_ok h
    obtain ⟨num, hnum, h⟩ := bind_eq_ok h
    cases h
    simp only [List.headD_cons] at hla hle hnum
    have hpow : Reference.pow2 la = a0 := by
      rcases glogByte_cases a0 with ⟨-, hg⟩ | ⟨-, k, -, hk, hg⟩
      · rw [hg] at hla; cases hla
      · rw [hg] at hla; cases hla; exact hk
    have hlen : num.length = (a0 :: a).length := pmodXor_length hnum
    obtain ⟨le', hle', hrest⟩ := bind_eq_ok hnum
    rw [hle] at hle'
    cases hle'
    have hhead : num.headD 0 = 0 := by
      rw [pmodXor_head hrest, show (le : Int) + (la - le) = la by omega, gexp_natCast, hpow]
      exact BitVec.xor_self
    rw [← hlen]
    exact poly_length_lt (List.ne_nil_of_length_pos (by rw [hlen]; exact Nat.succ_pos _)) hhead

/-- With a round for each coefficient the loop ends below the divisor's length (rule R124). -/
theorem pmodLoop_length_lt {e : Poly} (he : e ≠ []) {rounds : Nat} {a c : Poly} (hr : a.length < rounds)
    (h : pmodLoop e rounds a = .ok c) : c.length < e.length := by
  induction rounds generalizing a with
  | zero => omega
  | succ rounds ih =>
    unfold pmodLoop at h
    split at h
    next hlt => cases h; exact hlt
    next hge =>
      obtain ⟨a', hpass, h⟩ := bind_eq_ok h
      have ha : a ≠ [] := by
        rintro rfl
        exact hge (List.length_pos_of_ne_nil he)
      have := pmodPass_length_lt ha he hpass
      exact ih (by omega) h

/-- A remainder is shorter than its divisor. -/
theorem pmod_length_lt {a e c : Poly} (h : pmod a e = .ok c) : c.length < e.length := by
  unfold pmod at h
  split at h
  next => cases h
  next he => exact pmodLoop_length_lt (mt List.length_eq_zero_iff.mpr he) (Nat.lt_succ_self _) h

/-! ## The codeword stream -/

theorem blockEc_length_le {data ec : List Byte} {n : Nat} (h : blockEc data n = .ok ec) : ec.length ≤ n := by
  obtain ⟨g, hg, h⟩ := bind_eq_ok h
  obtain ⟨m, hm, h⟩ := bind_eq_ok h
  cases h
  have hgl := generator_length_le hg
  have hml := pmod_length_lt hm
  simp only [List.length_append, zeros, List.length_replicate]
  omega

/-- Of the first `n` columns a row is in `min n` of its length. -/
theorem sum_columns_of_row (n k : Nat) :
    ((List.range n).map fun i => if i < k then 1 else 0).sum = min n k := by
  induction n with
  | zero => simp
  | succ n ih =>
    rw [List.range_succ, List.map_append, List.sum_append, ih]
    simp only [List.map_cons, List.map_nil, List.sum_singleton]
    split <;> omega

theorem column_cons_length (row : List Byte) (rows : List (List Byte)) (i : Nat) :
    ((row :: rows).filterMap fun r => r[i]?).length =
      (if i < row.length then 1 else 0) + (rows.filterMap fun r => r[i]?).length := by
  by_cases h : i < row.length
  · simp [h, Nat.add_comm]
  · simp [h]

/-- The elements the first `n` columns of the rows hold, column by column. -/
theorem columns_length_le (n : Nat) (rows : List (List Byte)) :
    ((List.range n).flatMap fun i => rows.filterMap fun row => row[i]?).length ≤ (rows.map List.length).sum := by
  rw [List.length_flatMap]
  induction rows with
  | nil => simp
  | cons row rows ih =>
    simp only [column_cons_length, List.sum_map_add, sum_columns_of_row, List.map_cons, List.sum_cons]
    omega

theorem interleave_length_le (rows : List (List Byte)) :
    (interleave rows).length ≤ (rows.map List.length).sum := columns_length_le _ _

theorem dataChunks_length_le (blocks : List RsBlock) (buffer : List Byte) :
    ((dataChunks blocks buffer).map List.length).sum ≤ totalData blocks := by
  induction blocks generalizing buffer with
  | nil => simp [dataChunks, totalData]
  | cons b bs ih =>
    have := ih (buffer.drop b.dataCount)
    simp only [dataChunks, totalData, List.map_cons, List.sum_cons, List.length_take] at this ⊢
    omega

/-- The number of error-correction codewords of blocks. -/
def totalEc (blocks : List RsBlock) : Nat := (blocks.map fun b => b.totalCount - b.dataCount).sum

theorem totalData_add_totalEc {blocks : List RsBlock} (hv : ∀ b ∈ blocks, b.dataCount ≤ b.totalCount) :
    totalData blocks + totalEc blocks = totalCodewords blocks := by
  induction blocks with
  | nil => rfl
  | cons b bs ih =>
    have hb := hv b List.mem_cons_self
    have := ih fun c hc => hv c (List.mem_cons_of_mem _ hc)
    simp only [totalData, totalEc, totalCodewords, List.map_cons, List.sum_cons] at this ⊢
    omega

theorem ecChunks_length_le {blocks : List RsBlock} {chunks ec : List (List Byte)}
    (h : ecChunks blocks chunks = .ok ec) :
    (ec.map List.length).sum ≤ totalEc blocks := by
  induction blocks generalizing chunks ec with
  | nil => cases h; simp
  | cons b bs ih =>
    cases chunks with
    | nil => cases h; simp
    | cons c cs =>
      obtain ⟨e, he, h⟩ := bind_eq_ok h
      obtain ⟨es, hes, h⟩ := bind_eq_ok h
      cases h
      have hhead := blockEc_length_le he
      have htail := ih hes
      simp only [totalEc, List.map_cons, List.sum_cons] at htail ⊢
      omega

/-- The stream is no longer than the codewords of its blocks (rules R185, R186). -/
theorem createBytes_length_le {buffer out : List Byte} {blocks : List RsBlock}
    (hv : ∀ b ∈ blocks, b.dataCount ≤ b.totalCount) (h : createBytes buffer blocks = .ok out) :
    out.length ≤ totalCodewords blocks := by
  obtain ⟨ec, hec, h⟩ := bind_eq_ok h
  cases h
  calc (interleave (dataChunks blocks buffer) ++ interleave ec).length
      ≤ totalData blocks + totalEc blocks := by
        rw [List.length_append]
        exact Nat.add_le_add ((interleave_length_le _).trans (dataChunks_length_le _ _))
          ((interleave_length_le _).trans (ecChunks_length_le hec))
    _ = totalCodewords blocks := totalData_add_totalEc hv

end Sys2Proof.Machine
end

section
/-! SUPPORT. Invariants of a step: however the rule of a command ends, the state it leaves, or the state at its
`raise`, meets a predicate. Each rule is treated once; the composite commands chain their parts, and `step_keeps` is
the one case analysis over what a step can do. -/

namespace Sys2Proof.Machine

/-! ## How a rule ends -/

/-- A part of a command that completes has a result with `post`; one that raises does so in a state with `P`. -/
def EndsIn {α : Type} (P : State → Prop) (post : α → Prop) : Except Stop α → Prop
  | .ok a => post a
  | .error e => P e.current

section
variable {α β : Type} {P : State → Prop} {post : α → Prop} {post' : β → Prop} {s : State}

theorem EndsIn.ok_of {r : Except Stop α} {a : α} (h : EndsIn P post r) (hr : r = .ok a) : post a := by
  subst hr
  exact h

theorem EndsIn.error_of {r : Except Stop α} {e : Stop} (h : EndsIn P post r) (hr : r = .error e) : P e.current := by
  subst hr
  exact h

/-- Two parts of a command, one after the other. -/
theorem EndsIn.bind {r : Except Stop α} {f : α → Except Stop β} (hr : EndsIn P post r)
    (hf : ∀ a, post a → EndsIn P post' (f a)) : EndsIn P post' (r >>= f) := by
  cases r with
  | ok a => exact hf a hr
  | error e => exact hr

/-- A function without a state raises in the present state. -/
theorem EndsIn.liftRaise {r : Except Raise α} (hs : P s) (hr : ∀ a, r = .ok a → post a) :
    EndsIn P post (liftRaise s r) := by
  cases r with
  | ok a => exact hr a rfl
  | error e => exact hs

/-- A check that raises in the present state, before the rest of the rule. -/
theorem EndsIn.check {c : Prop} [Decidable c] {cause : Cause} {info : Int} {r : Except Stop α} (hs : P s)
    (hr : ¬ c → EndsIn P post r) : EndsIn P post (if c then raise s cause info else r) := by
  split
  next => exact hs
  next hc => exact hr hc

/-- A rule that raises only in the state before it: what it leaves when it completes is all there is to show. -/
theorem EndsIn.of_ok {r : Except Stop α} (hr : EndsIn (· = s) (fun _ => True) r) (hs : P s)
    (hok : ∀ a, r = .ok a → post a) : EndsIn P post r := by
  cases r with
  | ok a => exact hok a rfl
  | error e =>
    have he : e.current = s := hr
    change P e.current
    rwa [he]

end

/-! ## Where the stepwise commands raise -/

/-- A rule that raises only in the state before it (rule R330(a)). -/
abbrev RaisesInPlace {α : Type} (s : State) (r : Except Stop α) : Prop := EndsIn (· = s) (fun _ => True) r

theorem liftRaise_inPlace {α : Type} (s : State) (r : Except Raise α) : RaisesInPlace s (liftRaise s r) :=
  .liftRaise rfl fun _ _ => trivial

theorem storePoly_inPlace (pd : PReg) (c : Poly) (s : State) : RaisesInPlace s (storePoly pd c s) :=
  .check rfl fun _ => trivial

theorem boundedOperand_inPlace (bound v : Int) (s : State) : RaisesInPlace s (boundedOperand bound v s) :=
  .check rfl fun _ => trivial

theorem maskCoordinate_inPlace (v : Int) (s : State) : RaisesInPlace s (maskCoordinate v s) :=
  .check rfl fun _ => trivial

theorem maskOperand_inPlace (mask : BitVec 4) (s : State) : RaisesInPlace s (maskOperand mask s) := by
  unfold maskOperand
  split
  · trivial
  · rfl

/-- Every command but the two that are sequences of others makes its checks before it changes the state. -/
theorem bodyOf_raisesInPlace {i : Instr} (hi : i.isMakeimpl = false) (hm : i ≠ .make) (s : State) :
    RaisesInPlace s (bodyOf i s) := by
  cases i <;> simp only [bodyOf]
  case makeimpl => cases hi
  case make => exact absurd rfl hm
  case csrr =>
    unfold bodyCsrr
    split
    · trivial
    · rfl
  case csrw csr ra =>
    rcases bodyCsrw_cases csr ra s with ⟨_, -, h⟩ | ⟨-, h⟩ | ⟨-, h⟩ <;> rw [h]
    · trivial
    · rfl
    · rfl
  case gfLog => exact .bind (liftRaise_inPlace _ _) fun _ _ => trivial
  case polyNew => exact storePoly_inPlace _ _ _
  case polyMul => exact .bind (liftRaise_inPlace _ _) fun _ _ => storePoly_inPlace _ _ _
  case polyMod => exact .bind (liftRaise_inPlace _ _) fun _ _ => trivial
  case polyGet => exact .check rfl fun _ => trivial
  case bbPut => exact .check rfl fun _ => .check rfl fun _ => .bind (liftRaise_inPlace _ _) fun _ _ => trivial
  case bbPutbit => exact .check rfl fun _ => .bind (liftRaise_inPlace _ _) fun _ _ => trivial
  case bbGet => exact .check rfl fun _ => trivial
  case segEnc => exact .check rfl fun _ => trivial
  case segWrite => exact .check rfl fun _ => .bind (liftRaise_inPlace _ _) fun _ _ => trivial
  case dataSeg => exact .check rfl fun _ => .check rfl fun _ => .bind (liftRaise_inPlace _ _) fun _ _ => trivial
  case dataFin => exact .bind (liftRaise_inPlace _ _) fun _ _ => .bind (liftRaise_inPlace _ _) fun _ _ => trivial
  case verSel => exact .bind (liftRaise_inPlace _ _) fun _ _ => trivial
  case rsBlocks => exact .bind (liftRaise_inPlace _ _) fun _ _ => .check rfl fun _ => trivial
  case rsGen => exact .bind (liftRaise_inPlace _ _) fun _ _ => storePoly_inPlace _ _ _
  case rsEnc =>
    exact .bind (liftRaise_inPlace _ _) fun _ _ =>
      .check rfl fun _ => .check rfl fun _ => .bind (liftRaise_inPlace _ _) fun _ _ => trivial
  case bchFmt => exact .bind (boundedOperand_inPlace _ _ _) fun _ _ => trivial
  case bchVer => exact .bind (boundedOperand_inPlace _ _ _) fun _ _ => trivial
  case bchDigit => exact .check rfl fun _ => trivial
  case maskTst =>
    exact .check rfl fun _ => .bind (maskCoordinate_inPlace _ _) fun _ _ =>
      .bind (maskCoordinate_inPlace _ _) fun _ _ => .bind (liftRaise_inPlace _ _) fun _ _ => trivial
  case score => exact .check rfl fun _ => trivial
  case gridInit => exact .check rfl fun _ => trivial
  case gridStruct =>
    exact .bind (maskOperand_inPlace _ _) fun _ _ => .check rfl fun _ => .check rfl fun _ => trivial
  case gridMap =>
    exact .bind (maskOperand_inPlace _ _) fun _ _ =>
      .check rfl fun _ => .check rfl fun _ => .check rfl fun _ => .check rfl fun _ => trivial
  case gridFin => exact .check rfl fun _ => .check rfl fun _ => trivial
  case qDark => exact .check rfl fun _ => .check rfl fun _ => .check rfl fun _ => trivial
  all_goals trivial

/-! ## The composite commands

A predicate that the stepwise commands keep is kept by the sequences of them: the parts of `MAKEIMPL` in order
(rules R270, R276), and those of `MAKE`, with its own writes between them (rules R280, R281). -/

section
variable {P : State → Prop} {s : State}
  (hpart : ∀ i s, i.isMakeimpl = false → i ≠ .make → P s → EndsIn P P (bodyOf i s))
include hpart

theorem ensureData_endsIn (hs : P s) : EndsIn P P (ensureData rom s) := by
  rcases ensureData_cases s with ⟨-, h⟩ | ⟨-, h⟩ <;> rw [h]
  · exact hs
  · exact .bind (hpart .dataSeg _ rfl nofun ((hpart .bbClr s rfl nofun hs).ok_of rfl)) fun _ h1 =>
      .bind (hpart .dataFin _ rfl nofun h1) fun _ h2 => hpart .rsEnc _ rfl nofun h2

theorem bodyMakeimpl_endsIn (test : Bool) (mask : BitVec 4) (hs : P s) : EndsIn P P (bodyMakeimpl rom test mask s) :=
  .bind (.of_ok (post := fun _ => True) (maskOperand_inPlace mask s) hs fun _ _ => trivial) fun _ _ =>
    .bind (hpart .gridInit _ rfl nofun hs) fun _ h1 =>
      .bind (hpart (.gridStruct test mask) _ rfl nofun h1) fun _ h2 =>
        .bind (ensureData_endsIn hpart h2) fun _ h3 => hpart (.gridMap mask) _ rfl nofun h3

theorem runTrial_endsIn (p : Fin 8) (hs : P s) : EndsIn P (fun r => P r.1) (runTrial rom p s) :=
  .bind (bodyMakeimpl_endsIn hpart true (maskBits p) hs) fun _ h => h

theorem runTrials_endsIn (ps : List (Fin 8)) (best : Trial) (hs : P s) :
    EndsIn P (fun r => P r.1) (runTrials rom ps s best) := by
  induction ps generalizing s best with
  | nil => exact hs
  | cons p ps ih => exact .bind (runTrial_endsIn hpart p hs) fun _ h => ih _ h

theorem selectMask_endsIn (hs : P s) : EndsIn P (fun r => P r.1) (selectMask rom s) :=
  .bind (runTrial_endsIn hpart 0 hs) fun _ h => runTrials_endsIn hpart _ _ h

omit hpart in
theorem resolveVersion_endsIn (hversion : ∀ s v, P s → P { s with version := v }) (hs : P s) :
    EndsIn P P (resolveVersion rom s) := by
  unfold resolveVersion
  split
  · exact .bind (.liftRaise (post := fun _ => True) hs fun _ _ => trivial) fun _ _ => hversion _ _ hs
  · exact .bind (.liftRaise (post := fun _ => True) hs fun _ _ => trivial) fun _ _ => hs

theorem bodyMake_endsIn (hclear : ∀ s, P s → P s.clearDcValid)
    (hversion : ∀ s v, P s → P { s with version := v })
    (hbest : ∀ s mask score, P s → P (({ s with mask := mask } : State).writeScore score)) (hs : P s) :
    EndsIn P P (bodyMake rom s) :=
  .bind (hpart .segEnc _ rfl nofun (hclear s hs)) fun _ h1 =>
    .bind (resolveVersion_endsIn hversion h1) fun _ h2 =>
      .bind (selectMask_endsIn hpart h2) fun r h3 =>
        .bind (bodyMakeimpl_endsIn hpart false (maskBits r.2.pattern) h3) fun _ h4 =>
          .bind (hpart .gridFin _ rfl nofun h4) fun _ h5 => hbest _ _ _ h5

/-- A predicate that every stepwise command and `MAKE`'s own writes keep is kept by the rule of every command. -/
theorem bodyOf_endsIn (hclear : ∀ s, P s → P s.clearDcValid) (hversion : ∀ s v, P s → P { s with version := v })
    (hbest : ∀ s mask score, P s → P (({ s with mask := mask } : State).writeScore score)) (i : Instr) (hs : P s) :
    EndsIn P P (bodyOf i s) := by
  cases i with
  | makeimpl test mask => exact bodyMakeimpl_endsIn hpart test mask hs
  | make => exact bodyMake_endsIn hpart hclear hversion hbest hs
  | _ => exact hpart _ s rfl nofun hs

end

/-! ## The invariant rule of a step -/

/-- What every part of a step keeps, the step keeps: taking a transaction and answering it, RESET, the rule of each
other command however it ends, what a fault leaves, the host's writes and the reset input. -/
theorem step_keeps {P : State → Prop}
    (hport : ∀ s port reply freeIdx, P s → P { s with port := port, reply := reply, freeIdx := freeIdx })
    (hclear : ∀ s, P s → P s.clear)
    (hbody : ∀ i s, i ≠ .reset → s.fault = false → P s → EndsIn P P (bodyOf i s))
    (houtputs : ∀ i c s, P s → P (outputsOf i c s))
    (hfault : ∀ w c info s, P s → P (faultEntry w c info s))
    (hhost : ∀ txn s, txn.isRead = false → P s → P (hostAccess txn s))
    {s t : State} (hs : P s) (h : step s = .next t) : P t := by
  have htaken : ∀ txn rest, P (s.taken txn rest) := fun _ _ => hport _ _ _ _ hs
  rcases step_cases h with ⟨-, rfl⟩ | ⟨w, rest, -, ⟨i, -, hx⟩ | ⟨e, -, rfl⟩⟩ | ⟨txn, rest, -, -, rfl⟩
  · exact hs
  · rcases exec_cases hx with ⟨-, rfl⟩ | ⟨-, -, rfl⟩ | ⟨hi, hf, hb⟩ | ⟨hi, hf, e, hb, rfl⟩
    · exact hclear _ (htaken _ _)
    · exact htaken _ _
    · exact (hbody i _ hi hf (htaken _ _)).ok_of hb
    · exact hfault _ _ _ _ (houtputs _ _ _ ((hbody i _ hi hf (htaken _ _)).error_of hb))
  · rcases illegalWord_cases w (s.taken (.issue w) rest) with ⟨-, hw⟩ | ⟨-, hw⟩ <;> rw [hw]
    · exact htaken _ _
    · exact hfault _ _ _ _ (htaken _ _)
  · cases hr : txn.isRead with
    | false => exact hhost txn _ hr (htaken _ _)
    | true =>
      obtain ⟨sp, k, rfl⟩ : ∃ sp k, txn = .read sp k := by
        cases txn with
        | read sp k => exact ⟨sp, k, rfl⟩
        | _ => cases hr
      rw [hostAccess, taken_read, hostRead_taken]
      exact hport s _ _ s.freeIdx hs

end Sys2Proof.Machine
end

section
/-! SUPPORT. Every length within its capacity and every entry of BLK a valid block (rules R9, R36 to R40, R53, R329):
no part of a step takes a length past its capacity. -/

namespace Sys2Proof.Machine

/-- The two invariants together. -/
def State.withinCapacity (s : State) : Prop := s.buffersBounded ∧ s.blocksValid

/-! ## The blocks of the table -/

/-- The invariant of an ErrorCorrectionBlock, as `State.blocksValid` has it of the entries of BLK (rule R39). -/
abbrev RsBlock.valid (b : RsBlock) : Prop := 0 < b.dataCount ∧ b.dataCount ≤ b.totalCount ∧ b.totalCount < 256

theorem groupBlocks_valid {idx : Int} {g : Config.BlockGroup} {blocks : List RsBlock} (hg : g.totalCodewords < 256)
    (h : groupBlocks idx g = .ok blocks) :
    ∀ b ∈ blocks, b.valid := by
  unfold groupBlocks at h
  split at h
  next => cases h; simp
  next =>
    split at h
    next => cases h
    next =>
      split at h
      next => cases h
      next hc =>
        cases h
        intro b hb
        obtain ⟨-, rfl⟩ := List.mem_replicate.mp hb
        obtain ⟨-, hpos, hle⟩ := Decidable.not_not.mp hc
        exact ⟨hpos, hle, hg⟩

theorem cellBlocks_valid {idx : Int} {cell : List Config.BlockGroup} {blocks : List RsBlock}
    (hg : ∀ g ∈ cell, g.totalCodewords < 256) (h : cellBlocks idx cell = .ok blocks) :
    ∀ b ∈ blocks, b.valid := by
  induction cell generalizing blocks with
  | nil => cases h; simp
  | cons g gs ih =>
    obtain ⟨first, hfirst, h⟩ := bind_eq_ok h
    obtain ⟨others, hothers, h⟩ := bind_eq_ok h
    cases h
    intro b hb
    rcases List.mem_append.mp hb with hb | hb
    · exact groupBlocks_valid (hg g List.mem_cons_self) hfirst b hb
    · exact ih (fun g' hg' => hg g' (List.mem_cons_of_mem _ hg')) hothers b hb

/-- The counts of RS_BLOCK_TABLE are 8 bits wide (rule R24). -/
theorem rsBlock_totals_lt : ∀ cell ∈ rom.rsBlock, ∀ g ∈ cell, g.totalCodewords < 256 := by decide +kernel

/-- The lookup answers valid blocks (rules R39, R180). -/
theorem getRSBlocks_valid {version level : Nat} {blocks : List RsBlock}
    (h : getRSBlocks rom version level = .ok blocks) :
    ∀ b ∈ blocks, b.valid := by
  unfold getRSBlocks at h
  dsimp only at h
  split at h
  next => cases h
  next =>
    split at h
    next => cases h
    next cell hne =>
      refine cellBlocks_valid (rsBlock_totals_lt _ ?_) h
      rw [List.getD_eq_getElem?_getD] at hne ⊢
      cases hc : rom.rsBlock[(tableIndex version level).toNat]? with
      | none => exact absurd (by rw [hc]; rfl) hne
      | some cell => exact List.mem_of_getElem? hc

/-! ## The bit buffer

What appends to a buffer within its capacity leaves it so: `putBit` refuses the bit that would pass it. -/

section
variable {b b' : BitBuffer}

theorem putBit_bounded {bit : Bool} (hb : b.len ≤ 8 * Config.bbMaxBytes) (h : putBit b bit = .ok b') :
    b'.len ≤ 8 * Config.bbMaxBytes := by
  rcases putBit_cases b bit with ⟨hc, hp⟩ | ⟨-, -, hp⟩ <;> rw [hp] at h <;> cases h
  rw [BitBuffer.push_len]
  omega

theorem putBits_bounded {l : List Bool} (hb : b.len ≤ 8 * Config.bbMaxBytes) (h : putBits b l = .ok b') :
    b'.len ≤ 8 * Config.bbMaxBytes := by
  induction l generalizing b with
  | nil => cases h; exact hb
  | cons bit l ih =>
    obtain ⟨c, hc, h⟩ := bind_eq_ok h
    exact ih (putBit_bounded hb hc) h

theorem put_bounded {value n : Nat} (hb : b.len ≤ 8 * Config.bbMaxBytes) (h : put b value n = .ok b') :
    b'.len ≤ 8 * Config.bbMaxBytes := putBits_bounded hb h

theorem putBytes_bounded {l : List Byte} (hb : b.len ≤ 8 * Config.bbMaxBytes) (h : putBytes b l = .ok b') :
    b'.len ≤ 8 * Config.bbMaxBytes := by
  induction l generalizing b with
  | nil => cases h; exact hb
  | cons v l ih =>
    obtain ⟨c, hc, h⟩ := bind_eq_ok h
    exact ih (put_bounded hb hc) h

theorem putSegment_bounded {version : Nat} {segment : List Byte} (hb : b.len ≤ 8 * Config.bbMaxBytes)
    (h : putSegment rom version segment b = .ok b') : b'.len ≤ 8 * Config.bbMaxBytes := by
  obtain ⟨c, hc, h⟩ := bind_eq_ok h
  obtain ⟨d, hd, h⟩ := bind_eq_ok h
  exact putBytes_bounded (put_bounded (put_bounded hb hc) hd) h

theorem padToByte_bounded {rounds : Nat} (hb : b.len ≤ 8 * Config.bbMaxBytes) (h : padToByte rounds b = .ok b') :
    b'.len ≤ 8 * Config.bbMaxBytes := by
  induction rounds generalizing b with
  | zero => cases h; exact hb
  | succ rounds ih =>
    unfold padToByte at h
    split at h
    · obtain ⟨c, hc, h⟩ := bind_eq_ok h
      exact ih (putBit_bounded hb hc) h
    · cases h; exact hb

theorem padBytes_bounded {bits rounds : Nat} {now next : Byte} (hb : b.len ≤ 8 * Config.bbMaxBytes)
    (h : padBytes bits rounds now next b = .ok b') : b'.len ≤ 8 * Config.bbMaxBytes := by
  induction rounds generalizing now next b with
  | zero => cases h; exact hb
  | succ rounds ih =>
    unfold padBytes at h
    split at h
    · cases h; exact hb
    · obtain ⟨c, hc, h⟩ := bind_eq_ok h
      exact ih (put_bounded hb hc) h

theorem dataFinish_bounded {t : Nat} (hb : b.len ≤ 8 * Config.bbMaxBytes) (h : dataFinish t b = .ok b') :
    b'.len ≤ 8 * Config.bbMaxBytes := by
  unfold dataFinish at h
  split at h
  next => cases h
  next =>
    obtain ⟨c, hc, h⟩ : ∃ c : BitBuffer, c.len ≤ 8 * Config.bbMaxBytes ∧
        (padToByte 7 c >>= padBytes (t * 8) t padFirst padSecond) = .ok b' := by
      dsimp only at h
      split at h
      · obtain ⟨c, hc, h⟩ := bind_eq_ok h
        exact ⟨c, put_bounded hb hc, h⟩
      · exact ⟨b, hb, h⟩
    obtain ⟨d, hd, h⟩ := bind_eq_ok h
    exact padBytes_bounded (padToByte_bounded hc hd) h

end

/-! ## The parts of a step -/

section
variable {s t : State}

/-- A new bit buffer within the capacity. -/
theorem withinCapacity_bb {b : BitBuffer} (hs : s.withinCapacity) (hb : b.len ≤ 8 * Config.bbMaxBytes) :
    ({ s with bb := b } : State).withinCapacity := by
  obtain ⟨⟨hstg, htxt, hseg, -, hcw, hblk⟩, hvalid⟩ := hs
  exact ⟨⟨hstg, htxt, hseg, hb, hcw, hblk⟩, hvalid⟩

theorem withinCapacity_withBb {b : BitBuffer} (hs : s.withinCapacity) (hb : b.len ≤ 8 * Config.bbMaxBytes) :
    (s.withBb b).withinCapacity := withinCapacity_bb (s := s.clearDcValid) hs hb

/-- New codewords within the capacity. -/
theorem withinCapacity_cw {cw : List Byte} (hs : s.withinCapacity) (hcw : cw.length ≤ Config.cwMax) :
    ({ s with cw := cw } : State).withinCapacity := by
  obtain ⟨⟨hstg, htxt, hseg, hbb, -, hblk⟩, hvalid⟩ := hs
  exact ⟨⟨hstg, htxt, hseg, hbb, hcw, hblk⟩, hvalid⟩

/-- New blocks within the capacity. -/
theorem withinCapacity_blk {blocks : List RsBlock} (hs : s.withinCapacity) (hblk : blocks.length ≤ Config.blkMax)
    (hvalid : ∀ b ∈ blocks, b.valid) : ({ s with blk := blocks } : State).withinCapacity := by
  obtain ⟨⟨hstg, htxt, hseg, hbb, hcw, -⟩, -⟩ := hs
  exact ⟨⟨hstg, htxt, hseg, hbb, hcw, hblk⟩, hvalid⟩

/-- A new segment length within the capacity. -/
theorem withinCapacity_segLen {n : Nat} (hs : s.withinCapacity) (hn : n ≤ Config.segMax) :
    ({ s with segLen := n } : State).withinCapacity := by
  obtain ⟨⟨hstg, htxt, -, hbb, hcw, hblk⟩, hvalid⟩ := hs
  exact ⟨⟨hstg, htxt, hn, hbb, hcw, hblk⟩, hvalid⟩

theorem withinCapacity_clear (s : State) : s.clear.withinCapacity := by
  refine ⟨⟨?_, ?_, ?_, ?_, ?_, ?_⟩, fun _ hb => absurd hb List.not_mem_nil⟩ <;> exact Nat.zero_le _

theorem withinCapacity_freeBb (hs : s.withinCapacity) : s.freeBb.withinCapacity :=
  withinCapacity_bb hs (by
    rw [ofBits_eq_pushAll, BitBuffer.pushAll_len, List.length_map, List.length_range]
    exact (Nat.zero_add _).trans_le (Nat.min_le_right _ _))

theorem withinCapacity_freeCw (hs : s.withinCapacity) : s.freeCw.withinCapacity :=
  withinCapacity_cw hs (by
    rw [List.length_map, List.length_range]
    exact Nat.min_le_right _ _)

theorem withinCapacity_freeSeg (hs : s.withinCapacity) : s.freeSeg.withinCapacity :=
  withinCapacity_segLen (s := s.freeSegElements) hs (Nat.min_le_right _ _)

theorem withinCapacity_nextEpoch (hs : s.withinCapacity) : s.nextEpoch.withinCapacity := hs

/-- What a fault leaves of the buffers is within the capacities (log entry 12). -/
theorem withinCapacity_outputsOf (i : Instr) (c : Cause) (hs : s.withinCapacity) :
    (outputsOf i c s).withinCapacity := by
  cases i <;> simp only [outputsOf]
  case dataSeg =>
    unfold Outputs.bbFreeUnlessLimit
    split
    · exact hs
    · exact withinCapacity_nextEpoch (withinCapacity_freeBb hs)
  case dataFin => exact withinCapacity_nextEpoch (withinCapacity_freeBb hs)
  case rsEnc => exact withinCapacity_nextEpoch (withinCapacity_freeCw hs)
  case makeimpl => exact withinCapacity_nextEpoch (withinCapacity_freeCw (withinCapacity_freeBb hs))
  case make =>
    exact withinCapacity_nextEpoch (withinCapacity_freeCw (withinCapacity_freeBb (withinCapacity_freeSeg hs)))
  all_goals exact hs

/-- A length register takes no value above the capacity of its buffer (rule R53). -/
theorem withinCapacity_csrWrite {n : Nat} {w : Word} (hs : s.withinCapacity) (h : s.csrWrite n w = .written t) :
    t.withinCapacity := by
  obtain ⟨⟨hstg, htxt, hseg, hbb, hcw, hblk⟩, hvalid⟩ := hs
  rcases csrWrite_cases s n w with ⟨-, hw⟩ | ⟨-, hw⟩ | ⟨-, h0, hl, hw⟩ | ⟨-, h0, hl, hw⟩ | ⟨-, h0, hl, hw⟩ | ⟨-, hw⟩ |
    ⟨-, -, -, -, -, hw⟩ <;> rw [hw] at h <;> cases h
  · exact ⟨⟨hstg, htxt, hseg, hbb, hcw, hblk⟩, hvalid⟩
  · exact ⟨⟨hstg, htxt, hseg, hbb, hcw, hblk⟩, hvalid⟩
  · exact ⟨⟨hstg, Int.toNat_le.mpr hl, hseg, hbb, hcw, hblk⟩, hvalid⟩
  · exact ⟨⟨hstg, htxt, Int.toNat_le.mpr hl, hbb, hcw, hblk⟩, hvalid⟩
  · exact ⟨⟨Int.toNat_le.mpr hl, htxt, hseg, hbb, hcw, hblk⟩, hvalid⟩

theorem withinCapacity_within {capacity index : Nat} {access : State} (hs : s.withinCapacity)
    (ha : access.withinCapacity) : (s.within capacity index access).withinCapacity := by
  unfold State.within
  split
  · exact ha
  · exact hs

/-- The host's writes and the reset input. -/
theorem withinCapacity_hostAccess {txn : HostTxn} (hr : txn.isRead = false) (hs : s.withinCapacity) :
    (hostAccess txn s).withinCapacity := by
  cases txn with
  | read => cases hr
  | issue => exact hs
  | writeReadOnly => exact hs
  | writeCsr index v =>
    simp only [hostAccess, State.hostWriteCsr]
    split
    next hw => exact withinCapacity_csrWrite hs hw
    next => exact hs
    next => exact hs
  | hardwareReset => exact withinCapacity_clear _
  | writeX => exact withinCapacity_within hs hs
  | writeStg => exact withinCapacity_within hs hs
  | writeTxt => exact withinCapacity_within hs hs
  | writeSeg => exact withinCapacity_within hs hs

/-! ## The commands -/

/-- The blocks in force are valid, where there are any. -/
theorem blocks_endsIn_valid (hs : s.withinCapacity) :
    EndsIn State.withinCapacity (fun blocks => ∀ b ∈ blocks, b.valid) (s.blocks rom) :=
  .liftRaise hs fun _ h => getRSBlocks_valid h

/-- The checks of `RS.ENC` bound the stream it writes (rule R186). -/
theorem withinCapacity_bodyRsEnc (hs : s.withinCapacity) :
    EndsIn State.withinCapacity State.withinCapacity (bodyRsEnc rom s) :=
  .bind (blocks_endsIn_valid hs) fun _ hvalid => .check hs fun _ => .check hs fun hfits =>
    have hle := fun b hb => let ⟨_, hle, _⟩ := hvalid b hb; hle
    .bind (.liftRaise hs fun _ hout => (createBytes_length_le hle hout).trans (Nat.not_lt.mp hfits)) fun _ hlen =>
      withinCapacity_cw (s := s.setDcValid) hs hlen

/-- A command that is not a sequence of others, however it ends. -/
theorem withinCapacity_stepwise {i : Instr} (hi : i.isMakeimpl = false) (hm : i ≠ .make) (hs : s.withinCapacity) :
    EndsIn State.withinCapacity State.withinCapacity (bodyOf i s) := by
  obtain ⟨⟨-, -, -, hbb, -, -⟩, -⟩ := id hs
  cases hd : i.scalarDest with
  | some rd =>
    refine .of_ok (bodyOf_raisesInPlace hi hm s) hs fun t h => ?_
    obtain ⟨w, rfl⟩ := bodyOf_scalar hd h
    exact hs
  | none =>
  cases hp : i.polyDest with
  | some pd =>
    refine .of_ok (bodyOf_raisesInPlace hi hm s) hs fun t h => ?_
    obtain ⟨c, rfl⟩ := bodyOf_poly hp h
    exact hs
  | none =>
    cases i <;> simp only [Instr.scalarDest, Instr.polyDest, reduceCtorEq] at hd hp <;> simp only [bodyOf]
    case makeimpl => cases hi
    case make => exact absurd rfl hm
    case csrw csr ra =>
      rcases bodyCsrw_cases csr ra s with ⟨u, hw, hb⟩ | ⟨-, hb⟩ | ⟨-, hb⟩ <;> rw [hb]
      · exact withinCapacity_csrWrite hs hw
      · exact hs
      · exact hs
    case bbClr => exact withinCapacity_withBb hs (Nat.zero_le _)
    case bbPut =>
      exact .check hs fun _ => .check hs fun _ =>
        .bind (.liftRaise hs fun _ hb => put_bounded hbb hb) fun _ hb => withinCapacity_withBb hs hb
    case bbPutbit =>
      exact .check hs fun _ =>
        .bind (.liftRaise hs fun _ hb => putBit_bounded hbb hb) fun _ hb => withinCapacity_withBb hs hb
    case segEnc => exact .check hs fun hl => withinCapacity_segLen hs (Nat.not_lt.mp hl)
    case segWrite =>
      exact .check hs fun _ =>
        .bind (.liftRaise hs fun _ hb => putBytes_bounded hbb hb) fun _ hb => withinCapacity_withBb hs hb
    case dataSeg =>
      exact .check hs fun _ => .check hs fun _ =>
        .bind (.liftRaise hs fun _ hb => putSegment_bounded hbb hb) fun _ hb => withinCapacity_withBb hs hb
    case dataFin =>
      exact .bind (blocks_endsIn_valid hs) fun _ _ =>
        .bind (.liftRaise hs fun _ hb => dataFinish_bounded hbb hb) fun _ hb => withinCapacity_withBb hs hb
    case rsBlocks =>
      exact .bind (blocks_endsIn_valid hs) fun _ hvalid =>
        .check hs fun hl => withinCapacity_blk hs (Nat.not_lt.mp hl) hvalid
    case rsEnc => exact withinCapacity_bodyRsEnc hs
    case score => exact .check hs fun _ => hs
    case gridInit => exact .check hs fun _ => hs
    case gridStruct test mask =>
      rcases bodyGridStruct_cases test mask s with ⟨-, hb⟩ | ⟨-, -, hb⟩ | ⟨_, -, -, -, hb⟩ <;> rw [hb] <;> exact hs
    case gridMap mask =>
      rcases bodyGridMap_cases mask s with ⟨-, hb⟩ | ⟨-, -, hb⟩ | ⟨-, -, -, -, hb⟩ <;> rw [hb] <;> exact hs
    case gridFin =>
      rcases bodyGridFin_cases s with ⟨-, -, hb⟩ | ⟨-, hb⟩ <;> rw [hb] <;> exact hs
    all_goals exact hs

end

/-- Settles O13: every part of a step keeps the lengths within the capacities and the blocks valid. -/
theorem buffersStayWithinCapacity : Obligations.BuffersStayWithinCapacity := by
  unfold Obligations.BuffersStayWithinCapacity
  intro s t hbounded hvalid hstep
  have hbody (i : Instr) (s : State) (h : s.withinCapacity) :
      EndsIn State.withinCapacity State.withinCapacity (bodyOf i s) :=
    bodyOf_endsIn (fun _ _ hi hm h => withinCapacity_stepwise hi hm h) (hclear := fun _ h => h)
      (hversion := fun _ _ h => h) (hbest := fun _ _ _ h => h) i h
  exact step_keeps (P := State.withinCapacity)
    (hport := fun _ _ _ _ h => h)
    (hclear := fun s _ => withinCapacity_clear s)
    (hbody := fun i s _ _ h => hbody i s h)
    (houtputs := fun i c _ h => withinCapacity_outputsOf i c h)
    (hfault := fun _ _ _ _ h => h)
    (hhost := fun _ _ hr h => withinCapacity_hostAccess hr h)
    ⟨hbounded, hvalid⟩ hstep

end Sys2Proof.Machine
end

section
/-! SUPPORT. What a command that completes leaves, said once for every command that is not a sequence of others, and
what a host access other than a read leaves: later proofs split on these cases and do not unfold a rule. -/

namespace Sys2Proof.Machine

open Sys2Proof.Reference

/-! ## Appending to the bit buffer -/

/-- The second buffer is the first with bits appended (rule R140). -/
def BitBuffer.Extends (b b' : BitBuffer) : Prop := ∃ more, b' = b.pushAll more

theorem BitBuffer.Extends.refl (b : BitBuffer) : b.Extends b := ⟨[], rfl⟩

theorem BitBuffer.Extends.trans {a b c : BitBuffer} (hab : a.Extends b) (hbc : b.Extends c) : a.Extends c := by
  obtain ⟨l, rfl⟩ := hab
  obtain ⟨l', rfl⟩ := hbc
  exact ⟨l ++ l', (BitBuffer.pushAll_append a l l').symm⟩

section
variable {b b' : BitBuffer}

theorem putBit_extends {bit : Bool} (h : putBit b bit = .ok b') : b.Extends b' := by
  rcases putBit_cases b bit with ⟨-, hp⟩ | ⟨-, -, hp⟩ <;> rw [hp] at h <;> cases h
  exact ⟨[bit], rfl⟩

theorem put_extends {value n : Nat} (h : put b value n = .ok b') : b.Extends b' := ⟨_, put_eq_ok h⟩

theorem putBytes_extends {l : List Byte} (h : putBytes b l = .ok b') : b.Extends b' := ⟨_, putBytes_eq_ok h⟩

theorem putSegment_extends {version : Nat} {segment : List Byte} (h : putSegment rom version segment b = .ok b') :
    b.Extends b' := by
  obtain ⟨c, hc, h⟩ := bind_eq_ok h
  obtain ⟨d, hd, h⟩ := bind_eq_ok h
  exact ((put_extends hc).trans (put_extends hd)).trans (putBytes_extends h)

theorem padToByte_extends {rounds : Nat} (h : padToByte rounds b = .ok b') : b.Extends b' := by
  induction rounds generalizing b with
  | zero => cases h; exact .refl _
  | succ rounds ih =>
    unfold padToByte at h
    split at h
    · obtain ⟨c, hc, h⟩ := bind_eq_ok h
      exact (putBit_extends hc).trans (ih h)
    · cases h; exact .refl _

theorem padBytes_extends {bits rounds : Nat} {now next : Byte} (h : padBytes bits rounds now next b = .ok b') :
    b.Extends b' := by
  induction rounds generalizing now next b with
  | zero => cases h; exact .refl _
  | succ rounds ih =>
    unfold padBytes at h
    split at h
    · cases h; exact .refl _
    · obtain ⟨c, hc, h⟩ := bind_eq_ok h
      exact (put_extends hc).trans (ih h)

theorem dataFinish_extends {t : Nat} (h : dataFinish t b = .ok b') : b.Extends b' := by
  unfold dataFinish at h
  split at h
  next => cases h
  next =>
    obtain ⟨c, hc, h⟩ : ∃ c, b.Extends c ∧ (padToByte 7 c >>= padBytes (t * 8) t padFirst padSecond) = .ok b' := by
      dsimp only at h
      split at h
      · obtain ⟨c, hc, h⟩ := bind_eq_ok h
        exact ⟨c, put_extends hc, h⟩
      · exact ⟨b, .refl b, h⟩
    obtain ⟨d, hd, h⟩ := bind_eq_ok h
    exact (hc.trans (padToByte_extends hd)).trans (padBytes_extends h)

end

/-! ## Commands that complete -/

/-- The commands that append to the bit buffer (rules R147, R148, R154, R158, R160). -/
def appendsBits : Instr → Bool
  | .bbPut _ _ | .bbPutbit _ | .segWrite | .dataSeg | .dataFin => true
  | _ => false

/-- What a command that is not a sequence of others leaves when it completes. -/
inductive Completes (s : State) : Instr → State → Prop
  /-- `NOP` (rule R300). -/
  | nop : Completes s .nop s
  /-- The rule of `RESET`, before its end. -/
  | reset : Completes s .reset s
  /-- A command with a scalar destination (rule R31). -/
  | scalar {i : Instr} {rd : XReg} {w : Word} (hd : i.scalarDest = some rd) : Completes s i (s.writeXWord rd w)
  /-- A command with a polynomial destination (rule R33). -/
  | poly {i : Instr} {pd : PReg} {c : Poly} (hd : i.polyDest = some pd) : Completes s i (s.writeP pd c)
  /-- `CSRW` (rule R304). -/
  | csrw {csr : BitVec 16} {ra : XReg} {t : State} (hw : s.csrWrite csr.toNat s.x[ra] = .written t) :
      Completes s (.csrw csr ra) t
  /-- `BB.CLR` (rule R146). -/
  | bbClr : Completes s .bbClr (s.withBb .empty)
  /-- A command that appends to the bit buffer. -/
  | append {i : Instr} {b : BitBuffer} (hi : appendsBits i = true) (hb : s.bb.Extends b) : Completes s i (s.withBb b)
  /-- `SEG.ENC` (rule R152). -/
  | segEnc (hlen : (segEnc s.text).length ≤ Config.segMax) : Completes s .segEnc { s with
      seg := s.seg.writeSeq 0 (segEnc s.text), segLen := (segEnc s.text).length, dcValid := false }
  /-- `RS.BLOCKS` (rule R181). -/
  | rsBlocks {blocks : List RsBlock} (hb : getRSBlocks rom s.version.toNat s.level.toNat = .ok blocks) :
      Completes s .rsBlocks { s with blk := blocks }
  /-- `RS.ENC` (rule R186). -/
  | rsEnc {blocks : List RsBlock} {out : List Byte}
      (hb : getRSBlocks rom s.version.toNat s.level.toNat = .ok blocks) (hlen : s.bb.len = 8 * totalData blocks)
      (hout : createBytes (s.bb.bytes.take (totalData blocks)) blocks = .ok out) :
      Completes s .rsEnc ({ s with cw := out } : State).setDcValid
  /-- `SCORE` (rule R222). -/
  | score (hp : s.phase.resolved = true) : Completes s .score (s.writeScore (lostPoint s.grid s.modCnt))
  /-- `GRID.INIT` (rule R251). -/
  | gridInit (hv : versionInRange s.version.toNat = true) : Completes s .gridInit { s with
      modCnt := sideOf s.version.toNat, grid := Grid.blank (sideOf s.version.toNat), phase := .empty
      final := false, testF := false }
  /-- `GRID.STRUCT` (rule R268). -/
  | gridStruct {test : Bool} {mask : BitVec 4} (hm : mask.toNat < 8) (hp : s.phase = .empty) (h0 : s.modCnt ≠ 0)
      (hv : s.modCnt = sideOf s.version.toNat) : Completes s (.gridStruct test mask) { s with
        grid := structuralPatterns rom s.modCnt s.version.toNat s.level.toNat test ⟨mask.toNat, hm⟩ s.grid
        mask := ⟨mask.toNat, hm⟩, testF := test, phase := .structuralPatternsPlaced }
  /-- `GRID.MAP` (rule R272). -/
  | gridMap {mask : BitVec 4} (hm : mask.toNat = s.mask.val) (hp : s.phase = .structuralPatternsPlaced)
      (hv : s.modCnt = sideOf s.version.toNat) (hd : s.dcValid = true) : Completes s (.gridMap mask) { s with
        grid := mapData s.modCnt s.cw s.mask s.grid, phase := .dataMapped }
  /-- `GRID.FIN` (rule R275). -/
  | gridFin (hp : s.phase = .dataMapped) (ht : s.testF = false) :
      Completes s .gridFin { s with phase := .finalized, final := true }

/-- A check that did not raise. -/
theorem check_eq_ok {α : Type} {c : Prop} [Decidable c] {s : State} {cause : Cause} {info : Int} {r : Except Stop α}
    {a : α} (h : (if c then raise s cause info else r) = .ok a) : ¬ c ∧ r = .ok a := by
  split at h
  next => exact absurd h raise_ne_ok
  next hc => exact ⟨hc, h⟩

/-- Every command but the two that are sequences of others, inverted. -/
theorem bodyOf_completes {i : Instr} {s t : State} (hi : i.isMakeimpl = false) (hm : i ≠ .make)
    (h : bodyOf i s = .ok t) : Completes s i t := by
  cases hd : i.scalarDest with
  | some rd =>
    obtain ⟨w, rfl⟩ := bodyOf_scalar hd h
    exact .scalar hd
  | none =>
  cases hp : i.polyDest with
  | some pd =>
    obtain ⟨c, rfl⟩ := bodyOf_poly hp h
    exact .poly hp
  | none =>
    cases i <;> simp only [Instr.scalarDest, Instr.polyDest, reduceCtorEq] at hd hp <;> simp only [bodyOf] at h
    case makeimpl => cases hi
    case make => exact absurd rfl hm
    case nop => cases h; exact .nop
    case reset => cases h; exact .reset
    case csrw csr ra =>
      rcases bodyCsrw_cases csr ra s with ⟨u, hw, hb⟩ | ⟨-, hb⟩ | ⟨-, hb⟩ <;> rw [hb] at h <;> cases h
      exact .csrw hw
    case bbClr => cases h; exact .bbClr
    case bbPut =>
      obtain ⟨-, h⟩ := check_eq_ok h
      obtain ⟨-, h⟩ := check_eq_ok h
      obtain ⟨b, hb, h⟩ := bind_eq_ok h
      cases h
      exact .append rfl (put_extends (liftRaise_eq_ok hb))
    case bbPutbit =>
      obtain ⟨-, h⟩ := check_eq_ok h
      obtain ⟨b, hb, h⟩ := bind_eq_ok h
      cases h
      exact .append rfl (putBit_extends (liftRaise_eq_ok hb))
    case segEnc =>
      obtain ⟨hl, h⟩ := check_eq_ok h
      cases h
      exact .segEnc (Nat.not_lt.mp hl)
    case segWrite =>
      obtain ⟨-, h⟩ := check_eq_ok h
      obtain ⟨b, hb, h⟩ := bind_eq_ok h
      cases h
      exact .append rfl (putBytes_extends (liftRaise_eq_ok hb))
    case dataSeg =>
      obtain ⟨-, h⟩ := check_eq_ok h
      obtain ⟨-, h⟩ := check_eq_ok h
      obtain ⟨b, hb, h⟩ := bind_eq_ok h
      cases h
      exact .append rfl (putSegment_extends (liftRaise_eq_ok hb))
    case dataFin =>
      obtain ⟨blocks, -, h⟩ := bind_eq_ok h
      obtain ⟨b, hb, h⟩ := bind_eq_ok h
      cases h
      exact .append rfl (dataFinish_extends (liftRaise_eq_ok hb))
    case rsBlocks =>
      obtain ⟨blocks, hblocks, h⟩ := bind_eq_ok h
      obtain ⟨-, h⟩ := check_eq_ok h
      cases h
      exact .rsBlocks (liftRaise_eq_ok hblocks)
    case rsEnc =>
      obtain ⟨blocks, hblocks, h⟩ := bind_eq_ok h
      obtain ⟨hlen, h⟩ := check_eq_ok h
      obtain ⟨-, h⟩ := check_eq_ok h
      obtain ⟨out, hout, h⟩ := bind_eq_ok h
      cases h
      exact .rsEnc (liftRaise_eq_ok hblocks) (Decidable.not_not.mp hlen) (liftRaise_eq_ok hout)
    case score =>
      obtain ⟨hres, h⟩ := check_eq_ok h
      cases h
      exact .score (by simpa using hres)
    case gridInit =>
      rcases bodyGridInit_cases s with ⟨hv, hb⟩ | ⟨-, hb⟩ <;> rw [hb] at h <;> cases h
      exact .gridInit hv
    case gridStruct test mask =>
      rcases bodyGridStruct_cases test mask s with ⟨-, hb⟩ | ⟨-, -, hb⟩ | ⟨hmask, hempty, h0, hv, hb⟩ <;>
        rw [hb] at h <;> cases h
      exact .gridStruct hmask hempty h0 hv
    case gridMap mask =>
      rcases bodyGridMap_cases mask s with ⟨-, hb⟩ | ⟨-, -, hb⟩ | ⟨hmask, hplaced, hv, hvalid, hb⟩ <;>
        rw [hb] at h <;> cases h
      exact .gridMap hmask hplaced hv hvalid
    case gridFin =>
      rcases bodyGridFin_cases s with ⟨hmapped, htest, hb⟩ | ⟨-, hb⟩ <;> rw [hb] at h <;> cases h
      exact .gridFin hmapped htest

/-- A predicate that every completing command keeps is kept by its rule, however it ends. -/
theorem bodyOf_endsIn_of_completes {P : State → Prop} {i : Instr} {s : State} (hi : i.isMakeimpl = false)
    (hm : i ≠ .make) (hs : P s) (hok : ∀ t, Completes s i t → P t) : EndsIn P P (bodyOf i s) :=
  .of_ok (bodyOf_raisesInPlace hi hm s) hs fun t h => hok t (bodyOf_completes hi hm h)

/-! ## Writes of a control register, host accesses -/

/-- A write of a control register that took effect (rules R53, R304). -/
theorem csrWrite_written {s t : State} {n : Nat} {w : Word} (h : s.csrWrite n w = .written t) :
    (n = 4 ∧ t = s.writeVersion w) ∨ (n = 5 ∧ t = s.writeLevel w) ∨ (n = 12 ∧ t = { s with txtLen := w.toInt.toNat }) ∨
    (n = 13 ∧ t = { s with segLen := w.toInt.toNat, dcValid := false }) ∨
    (n = 15 ∧ t = { s with stgLen := w.toInt.toNat }) := by
  rcases csrWrite_cases s n w with ⟨hn, hw⟩ | ⟨hn, hw⟩ | ⟨hn, -, -, hw⟩ | ⟨hn, -, -, hw⟩ | ⟨hn, -, -, hw⟩ | ⟨-, hw⟩ |
    ⟨-, -, -, -, -, hw⟩ <;> rw [hw] at h <;> cases h <;> simp [hn]

/-- The state with the registers and elements that a host write or `CSRW` can change taken from another. -/
def State.withHostPart (s u : State) : State := { s with
  x := u.x, stg := u.stg, stgLen := u.stgLen, txt := u.txt, txtLen := u.txtLen, seg := u.seg, segLen := u.segLen
  version := u.version, level := u.level, dcValid := u.dcValid }

/-- A write of a control register changes nothing else. -/
theorem csrWrite_hostPart {s t : State} {n : Nat} {w : Word} (h : s.csrWrite n w = .written t) :
    t = s.withHostPart t := by
  rcases csrWrite_written h with ⟨-, rfl⟩ | ⟨-, rfl⟩ | ⟨-, rfl⟩ | ⟨-, rfl⟩ | ⟨-, rfl⟩ <;> rfl

/-- Everything a host access other than a read can do (rules R31, R35 to R37, R62, R69, R350). -/
theorem hostAccess_cases {txn : HostTxn} (hr : txn.isRead = false) (s : State) :
    hostAccess txn s = s ∨ (∃ r w, hostAccess txn s = s.writeXWord r w) ∨
    (∃ n w, s.csrWrite n w = .written (hostAccess txn s)) ∨ (∃ m, hostAccess txn s = { s with stg := m }) ∨
    (∃ m, hostAccess txn s = { s with txt := m }) ∨ (∃ m, hostAccess txn s = { s with seg := m, dcValid := false }) ∨
    (hostAccess txn s = s.hardwareReset) := by
  have hwithin : ∀ capacity index access, s.within capacity index access = s ∨
      s.within capacity index access = access := fun capacity index access => by
    unfold State.within
    split
    · exact .inr rfl
    · exact .inl rfl
  cases txn with
  | read => cases hr
  | issue => exact .inl rfl
  | writeReadOnly => exact .inl rfl
  | hardwareReset => simp [hostAccess]
  | writeX index v => exact (hwithin ..).imp id fun h => .inl ⟨_, _, h⟩
  | writeStg index v => exact (hwithin ..).imp id fun h => .inr (.inr (.inl ⟨_, h⟩))
  | writeTxt index v => exact (hwithin ..).imp id fun h => .inr (.inr (.inr (.inl ⟨_, h⟩)))
  | writeSeg index v => exact (hwithin ..).imp id fun h => .inr (.inr (.inr (.inr (.inl ⟨_, h⟩))))
  | writeCsr index v =>
    simp only [hostAccess, State.hostWriteCsr]
    split
    next t hw => exact .inr (.inr (.inl ⟨index, v, hw⟩))
    next => exact .inl rfl
    next => exact .inl rfl

/-- A host access other than a read and the reset input changes nothing else. -/
theorem hostAccess_hostPart {txn : HostTxn} (hr : txn.isRead = false) (s : State) :
    hostAccess txn s = s.withHostPart (hostAccess txn s) ∨ hostAccess txn s = s.hardwareReset := by
  rcases hostAccess_cases hr s with h | ⟨r, w, h⟩ | ⟨n, w, h⟩ | ⟨m, h⟩ | ⟨m, h⟩ | ⟨m, h⟩ | h
  case inr.inr.inl => exact .inl (csrWrite_hostPart h)
  case inr.inr.inr.inr.inr.inr => exact .inr h
  all_goals exact .inl (by rw [h]; rfl)

/-! ## What a fault leaves -/

/-- What a fault leaves of the buffers a command writes, by command (rule R330(b)). -/
theorem outputsOf_cases (i : Instr) (c : Cause) (s : State) :
    outputsOf i c s = s ∨ (i.writesBb = true ∧ outputsOf i c s = s.freeBb.nextEpoch) ∨
    (i = .rsEnc ∧ outputsOf i c s = s.freeCw.nextEpoch) ∨
    (i.isMakeimpl = true ∧ outputsOf i c s = s.freeBb.freeCw.nextEpoch) ∨
    (i = .make ∧ outputsOf i c s = s.freeSeg.freeBb.freeCw.nextEpoch) := by
  cases i with
  | dataSeg =>
    by_cases hc : c = .bufferLimit
    · exact .inl (if_pos hc)
    · exact .inr (.inl ⟨rfl, if_neg hc⟩)
  | dataFin => exact .inr (.inl ⟨rfl, rfl⟩)
  | rsEnc => exact .inr (.inr (.inl ⟨rfl, rfl⟩))
  | makeimpl => exact .inr (.inr (.inr (.inl ⟨rfl, rfl⟩)))
  | make => exact .inr (.inr (.inr (.inr ⟨rfl, rfl⟩)))
  | _ => exact .inl rfl

end Sys2Proof.Machine
end

section
/-! SUPPORT. The data scan (rules R271, R273): it visits every cell outside column 6 once, in the order of the reference
description's rank, so that what it writes into a cell is decided by the free cells of lower rank. -/

namespace Sys2Proof.Machine

open Sys2Proof.Reference

/-! ## The order of the scan -/

/-- The right column at which pass `k` of the scan begins, before column 6 is left out (rule R271(a)). -/
def passColumn (mc k : Nat) : Nat := if 6 ≤ mc - 1 - 2 * k then mc - 1 - 2 * k else mc - 2 - 2 * k

/-- The right column of pass `k` (rule R271(a)). -/
def passRight (mc k : Nat) : Nat := if passColumn mc k = 6 then 5 else passColumn mc k

/-- The rank of a cell, given as a pair. -/
abbrev cellRank (mc : Nat) (p : Nat × Nat) : Nat := scanRank mc p.1 p.2

/-- The direction alternates with the number of the pass. -/
theorem not_upward (k : Nat) : (!(k % 2 == 0)) = ((k + 1) % 2 == 0) := by
  rcases Nat.mod_two_eq_zero_or_one k with h | h
  · simp [h, show (k + 1) % 2 = 1 by omega]
  · simp [h, show (k + 1) % 2 = 0 by omega]

theorem mem_passCells {mc : Nat} {upward : Bool} {right : Nat} {p : Nat × Nat} :
    p ∈ passCells mc upward right ↔ p.1 < mc ∧ (p.2 = right ∨ p.2 = right - 1) := by
  obtain ⟨row, col⟩ := p
  have hrows : ∀ r, r ∈ (if upward then (List.range mc).reverse else List.range mc) ↔ r < mc := by
    cases upward <;> simp
  simp only [passCells, List.mem_flatMap, List.mem_pair, Prod.mk.injEq, hrows]
  constructor
  · rintro ⟨r, hr, ⟨rfl, rfl⟩ | ⟨rfl, rfl⟩⟩
    · exact ⟨hr, .inl rfl⟩
    · exact ⟨hr, .inr rfl⟩
  · rintro ⟨hr, hc⟩
    exact ⟨row, hr, hc.imp (⟨rfl, ·⟩) (⟨rfl, ·⟩)⟩

section
variable {mc k : Nat} (hodd : mc % 2 = 1)
include hodd

/-- The ranks of the two cells of a row in a pass. -/
theorem scanRank_pass (hc : passColumn mc k ≠ 0) (row : Nat) :
    let down := if k % 2 = 0 then mc - 1 - row else row
    scanRank mc row (passRight mc k) = k * (2 * mc) + 2 * down ∧
      scanRank mc row (passRight mc k - 1) = k * (2 * mc) + 2 * down + 1 := by
  have key : ∀ col fromRight, (if 6 < col then mc - 1 - col else mc - 2 - col) = fromRight → fromRight / 2 = k →
      scanRank mc row col = k * (2 * mc) + 2 * (if k % 2 = 0 then mc - 1 - row else row) + fromRight % 2 := by
    intro col fromRight h1 h2
    simp only [scanRank, h1, h2]
  unfold passRight passColumn at *
  dsimp only
  rw [key _ (2 * k) (by split_ifs at hc ⊢ <;> omega) (by omega),
    key _ (2 * k + 1) (by split_ifs at hc ⊢ <;> omega) (by omega)]
  constructor <;> omega

/-- The next pass begins two columns to the left. -/
theorem passColumn_succ : passRight mc k - 2 = passColumn mc (k + 1) := by
  unfold passRight passColumn
  split_ifs <;> omega

/-- The cells of a pass, in the order of their ranks. -/
theorem passCells_sorted (hc : passColumn mc k ≠ 0) :
    (passCells mc (k % 2 == 0) (passRight mc k)).Pairwise fun p q => cellRank mc p < cellRank mc q := by
  have hrank := scanRank_pass hodd hc
  dsimp only at hrank
  simp only [passCells, List.pairwise_flatMap, List.pairwise_pair, List.mem_pair, forall_eq_or_imp, forall_eq, hrank]
  refine ⟨fun row _ => by omega, ?_⟩
  rcases Nat.mod_two_eq_zero_or_one k with h | h
  · simp only [h, BEq.rfl, if_true, List.pairwise_reverse]
    exact List.pairwise_lt_range.imp_of_mem fun ha hb _ => by
      have := List.mem_range.mp ha
      have := List.mem_range.mp hb
      omega
  · simp only [h, show ((1 : Nat) == 0) = false from rfl, Bool.false_eq_true, Nat.one_ne_zero, if_false]
    exact List.pairwise_lt_range.imp fun _ => by omega

/-- The cells of a pass lie in the grid, outside column 6, and their ranks in the pass's range. -/
theorem passCells_bounds (hc : passColumn mc k ≠ 0) {p : Nat × Nat}
    (hp : p ∈ passCells mc (k % 2 == 0) (passRight mc k)) :
    p.1 < mc ∧ p.2 < mc ∧ p.2 ≠ 6 ∧ k * (2 * mc) ≤ cellRank mc p ∧ cellRank mc p < k * (2 * mc) + 2 * mc := by
  obtain ⟨row, col⟩ := p
  obtain ⟨hrow, hp⟩ := mem_passCells.mp hp
  obtain ⟨hright, hleft⟩ := scanRank_pass hodd hc row
  dsimp only at hrow hp ⊢
  have hcol : passRight mc k < mc ∧ passRight mc k ≠ 6 ∧ passRight mc k ≠ 7 := by
    unfold passRight passColumn at *
    split_ifs at hc ⊢ <;> omega
  have hdown : (if k % 2 = 0 then mc - 1 - row else row) < mc := by split <;> omega
  rcases hp with rfl | rfl
  · rw [cellRank, hright]
    omega
  · rw [cellRank, hleft]
    omega

/-- The passes from number `k` on, in the order of their ranks. -/
theorem scanPasses_sorted (rounds : Nat) :
    let cells := scanPasses mc (k % 2 == 0) (pairColumns rounds (passColumn mc k))
    cells.Pairwise (fun p q => cellRank mc p < cellRank mc q) ∧
      ∀ p ∈ cells, p.1 < mc ∧ p.2 < mc ∧ p.2 ≠ 6 ∧ k * (2 * mc) ≤ cellRank mc p := by
  induction rounds generalizing k with
  | zero => simp [pairColumns, scanPasses]
  | succ rounds ih =>
    by_cases hc : passColumn mc k = 0
    · simp [pairColumns, scanPasses, hc]
    obtain ⟨hsorted, hcells⟩ := ih (k := k + 1)
    rw [Nat.succ_mul] at hcells
    have hcolumns : pairColumns (rounds + 1) (passColumn mc k) =
        passRight mc k :: pairColumns rounds (passColumn mc (k + 1)) := by
      rw [← passColumn_succ hodd]
      simp only [pairColumns, if_neg hc, passRight]
    dsimp only
    rw [hcolumns, scanPasses, not_upward]
    refine ⟨List.pairwise_append.mpr ⟨passCells_sorted hodd hc, hsorted, fun p hp q hq => ?_⟩, fun p hp => ?_⟩
    · obtain ⟨-, -, -, -, hlt⟩ := passCells_bounds hodd hc hp
      obtain ⟨-, -, -, hle⟩ := hcells q hq
      omega
    · rcases List.mem_append.mp hp with hp | hp
      · obtain ⟨h1, h2, h3, h4, -⟩ := passCells_bounds hodd hc hp
        exact ⟨h1, h2, h3, h4⟩
      · obtain ⟨h1, h2, h3, h4⟩ := hcells p hp
        exact ⟨h1, h2, h3, by omega⟩

end

/-- The passes from a column on reach every column up to it but 6. -/
theorem mem_scanPasses {mc row c : Nat} (hrow : row < mc) (h6 : c ≠ 6) {rounds col : Nat} {upward : Bool}
    (hcol : 6 ≤ col ∧ col % 2 = 0 ∨ col < 6 ∧ col % 2 = 1) (hc : c ≤ col) (hr : col ≤ rounds) :
    (row, c) ∈ scanPasses mc upward (pairColumns rounds col) := by
  induction rounds generalizing col upward with
  | zero => omega
  | succ rounds ih =>
    simp only [pairColumns, if_neg (show col ≠ 0 by omega), scanPasses, List.mem_append, mem_passCells]
    by_cases hlast : c = (if col = 6 then 5 else col) ∨ c = (if col = 6 then 5 else col) - 1
    · exact .inl ⟨hrow, hlast⟩
    · refine .inr (ih ?_ ?_ ?_) <;> split_ifs at hlast ⊢ <;> omega

/-- The scan begins at the last column. -/
theorem passColumn_zero {mc : Nat} (h7 : 7 ≤ mc) : passColumn mc 0 = mc - 1 := by
  unfold passColumn
  split_ifs <;> omega

/-- The scan visits its cells in the order of their ranks. -/
theorem scanOrder_sorted {mc : Nat} (hodd : mc % 2 = 1) (h7 : 7 ≤ mc) :
    (scanOrder mc).Pairwise fun p q => cellRank mc p < cellRank mc q := by
  have h := (scanPasses_sorted hodd (k := 0) mc).1
  rwa [passColumn_zero h7] at h

/-- The scan visits the cells outside column 6. -/
theorem mem_scanOrder {mc : Nat} (hodd : mc % 2 = 1) (h7 : 7 ≤ mc) (p : Nat × Nat) :
    p ∈ scanOrder mc ↔ p.1 < mc ∧ p.2 < mc ∧ p.2 ≠ 6 := by
  constructor
  · intro hp
    have h := (scanPasses_sorted hodd (k := 0) mc).2
    rw [passColumn_zero h7] at h
    obtain ⟨h1, h2, h3, -⟩ := h p hp
    exact ⟨h1, h2, h3⟩
  · rintro ⟨hrow, hcol, h6⟩
    exact mem_scanPasses hrow h6 (by omega) (by omega) (by omega)

/-! ## What the scan writes -/

/-- The cells of a list that a grid leaves `Unset` and that come before a cell. -/
def freeBefore (g : Grid) (mc : Nat) (cells : List (Nat × Nat)) (p : Nat × Nat) : Nat :=
  (cells.filter fun q => g.cell q.1 q.2 == .unset && decide (cellRank mc q < cellRank mc p)).length

/-- One visit, as a change of the grid and the count of bits. -/
theorem mapCell_cases (cw : List Byte) (mask : Fin 8) (g : Grid) (n row col : Nat) :
    (g.cell row col = .unset ∧ mapCell cw mask (g, n) (row, col) =
      (g.put row col (codewordBit cw n ^^ maskPredicate mask row col), n + 1)) ∨
    (g.cell row col ≠ .unset ∧ mapCell cw mask (g, n) (row, col) = (g, n)) := by
  by_cases h : g.cell row col = .unset
  · exact .inl ⟨h, by simp [mapCell, h]⟩
  · exact .inr ⟨h, by simp [mapCell, h]⟩

section
variable {mc : Nat} {cw : List Byte} {mask : Fin 8}

/-- The visits keep the square. -/
theorem foldl_mapCell_square {cells : List (Nat × Nat)} {g : Grid} {n : Nat} (hg : g.square mc) :
    (cells.foldl (mapCell cw mask) (g, n)).1.square mc := by
  induction cells generalizing g n with
  | nil => exact hg
  | cons p cells ih =>
    obtain ⟨row, col⟩ := p
    rcases mapCell_cases cw mask g n row col with ⟨-, h⟩ | ⟨-, h⟩ <;> rw [List.foldl_cons, h]
    · exact ih (Grid.square_put hg _ _ _)
    · exact ih hg

/-- A cell that is not visited keeps what it held. -/
theorem foldl_mapCell_other {cells : List (Nat × Nat)} {g : Grid} {n r c : Nat} (hg : g.square mc)
    (h : (r, c) ∉ cells) : (cells.foldl (mapCell cw mask) (g, n)).1.cell r c = g.cell r c := by
  induction cells generalizing g n with
  | nil => rfl
  | cons p cells ih =>
    obtain ⟨row, col⟩ := p
    obtain ⟨hne, h⟩ := not_or.mp (mt List.mem_cons.mpr h)
    rcases mapCell_cases cw mask g n row col with ⟨-, hm⟩ | ⟨-, hm⟩ <;> rw [List.foldl_cons, hm]
    · rw [ih (Grid.square_put hg _ _ _) h, Grid.cell_put hg, if_neg]
      rintro ⟨rfl, rfl, -⟩
      exact hne rfl
    · exact ih hg h

/-- A write leaves the cells of higher rank. -/
theorem cell_put_later {g : Grid} {p q : Nat × Nat} {dark : Bool} (hg : g.square mc)
    (h : cellRank mc p < cellRank mc q) : (g.put p.1 p.2 dark).cell q.1 q.2 = g.cell q.1 q.2 := by
  rw [Grid.cell_put hg, if_neg]
  rintro ⟨h1, h2, -⟩
  rw [cellRank, cellRank, h1, h2] at h
  exact lt_irrefl _ h

/-- No cell comes before the one of lowest rank. -/
theorem freeBefore_first {g : Grid} {p : Nat × Nat} {cells : List (Nat × Nat)}
    (hfirst : ∀ q ∈ cells, cellRank mc p < cellRank mc q) : freeBefore g mc (p :: cells) p = 0 := by
  rw [freeBefore, List.length_eq_zero_iff, List.filter_eq_nil_iff]
  intro q hq
  rcases List.mem_cons.mp hq with rfl | hq
  · simp
  · simp [(hfirst q hq).le]

/-- The count over cells of higher rank than a written one. -/
theorem freeBefore_put {g : Grid} {p q : Nat × Nat} {cells : List (Nat × Nat)} {dark : Bool} (hg : g.square mc)
    (hfirst : ∀ q ∈ cells, cellRank mc p < cellRank mc q) :
    freeBefore (g.put p.1 p.2 dark) mc cells q = freeBefore g mc cells q :=
  congrArg List.length (List.filter_congr fun _ hr => by rw [cell_put_later hg (hfirst _ hr)])

/-- Visits in the order of the ranks: a free cell takes the bit whose number is the count of free cells before it. -/
theorem foldl_mapCell_cell {cells : List (Nat × Nat)} {g : Grid} {n : Nat} {q : Nat × Nat} (hg : g.square mc)
    (hsorted : cells.Pairwise fun p q => cellRank mc p < cellRank mc q) (hin : ∀ p ∈ cells, p.1 < mc ∧ p.2 < mc)
    (h : q ∈ cells) :
    (cells.foldl (mapCell cw mask) (g, n)).1.cell q.1 q.2 =
      if g.cell q.1 q.2 = .unset then
        GridCell.ofBool (codewordBit cw (n + freeBefore g mc cells q) ^^ maskPredicate mask q.1 q.2)
      else g.cell q.1 q.2 := by
  induction cells generalizing g n with
  | nil => cases h
  | cons p cells ih =>
    obtain ⟨hfirst, hsorted⟩ := List.pairwise_cons.mp hsorted
    obtain ⟨⟨hrow, hcol⟩, hin⟩ := List.forall_mem_cons.mp hin
    rw [List.foldl_cons]
    rcases List.mem_cons.mp h with rfl | hmem
    · -- the first visit is the only one of its cell
      have hnot : q ∉ cells := fun hm => lt_irrefl _ (hfirst _ hm)
      rw [freeBefore_first hfirst, Nat.add_zero]
      rcases mapCell_cases cw mask g n q.1 q.2 with ⟨hfree, hm⟩ | ⟨hset, hm⟩ <;> rw [hm]
      · rw [foldl_mapCell_other (Grid.square_put hg _ _ _) hnot, Grid.cell_put hg, if_pos ⟨rfl, rfl, hrow, hcol⟩,
          if_pos hfree]
      · rw [foldl_mapCell_other hg hnot, if_neg hset]
    · -- the first visit leaves the cell, and its bit is counted where it took one
      rcases mapCell_cases cw mask g n p.1 p.2 with ⟨hfree, hm⟩ | ⟨hset, hm⟩ <;> rw [hm]
      · have hcount : freeBefore g mc (p :: cells) q = freeBefore g mc cells q + 1 := by
          simp [freeBefore, hfree, hfirst q hmem]
        rw [ih (Grid.square_put hg _ _ _) hsorted hin hmem, freeBefore_put hg hfirst,
          cell_put_later hg (hfirst q hmem), hcount, Nat.add_assoc, Nat.add_comm 1]
      · have hcount : freeBefore g mc (p :: cells) q = freeBefore g mc cells q := by
          simp [freeBefore, hset]
        rw [ih hg hsorted hin hmem, hcount]

theorem square_mapData {g : Grid} (hg : g.square mc) : (mapData mc cw mask g).square mc := foldl_mapCell_square hg

/-- The grid `mapData` leaves, cell by cell (rules R271, R273). -/
theorem cell_mapData {g : Grid} {r c : Nat} (hg : g.square mc) (hodd : mc % 2 = 1) (h7 : 7 ≤ mc)
    (h6 : ∀ r < mc, g.cell r 6 ≠ .unset) (hr : r < mc) (hc : c < mc) :
    (mapData mc cw mask g).cell r c =
      if g.cell r c = .unset then
        GridCell.ofBool (codewordBit cw (freeBefore g mc (scanOrder mc) (r, c)) ^^ maskPredicate mask r c)
      else g.cell r c := by
  have hmem := mem_scanOrder hodd h7
  by_cases hcol : c = 6
  · subst hcol
    rw [if_neg (h6 r hr)]
    exact foldl_mapCell_other hg fun h => ((hmem _).mp h).2.2 rfl
  · have h := foldl_mapCell_cell (cw := cw) (mask := mask) (n := 0) hg (scanOrder_sorted hodd h7)
      (fun p hp => have ⟨hrow, hcol, _⟩ := (hmem p).mp hp; ⟨hrow, hcol⟩) ((hmem (r, c)).mpr ⟨hr, hc, hcol⟩)
    rwa [Nat.zero_add] at h

/-- No cell is left `Unset` (rule R273). -/
theorem mapData_set {g : Grid} {r c : Nat} (hg : g.square mc) (hodd : mc % 2 = 1) (h7 : 7 ≤ mc)
    (h6 : ∀ r < mc, g.cell r 6 ≠ .unset) (hr : r < mc) (hc : c < mc) :
    (mapData mc cw mask g).cell r c ≠ .unset := by
  rw [cell_mapData hg hodd h7 h6 hr hc]
  split
  · exact GridCell.ofBool_ne_unset _
  · assumption

end

end Sys2Proof.Machine
end

section
/-! SUPPORT. The rule of a step for an invariant that every fault establishes: fault entry drops the grid, the stream
and the flags, so nothing is to be shown of what a faulting command leaves behind. -/

namespace Sys2Proof.Machine

/-- An invariant that fault entry and a reset establish from any state is kept by a step when the commands that
complete and the host's writes keep it. -/
theorem step_keeps_of_fault {P : State → Prop}
    (hport : ∀ s port reply freeIdx, P s → P { s with port := port, reply := reply, freeIdx := freeIdx })
    (hclear : ∀ s : State, P s.clear)
    (hok : ∀ i s t, s.fault = false → P s → bodyOf i s = .ok t → P t)
    (hfault : ∀ w c info s, P (faultEntry w c info s))
    (hhost : ∀ txn s, txn.isRead = false → P s → P (hostAccess txn s))
    {s t : State} (hs : P s) (h : step s = .next t) : P t := by
  have htaken : ∀ txn rest, P (s.taken txn rest) := fun _ _ => hport _ _ _ _ hs
  rcases step_cases h with ⟨-, rfl⟩ | ⟨w, rest, -, ⟨i, -, hx⟩ | ⟨e, -, rfl⟩⟩ | ⟨txn, rest, -, -, rfl⟩
  · exact hs
  · rcases exec_cases hx with ⟨-, rfl⟩ | ⟨-, -, rfl⟩ | ⟨-, hf, hb⟩ | ⟨-, -, e, -, rfl⟩
    · exact hclear _
    · exact htaken _ _
    · exact hok i _ _ hf (htaken _ _) hb
    · exact hfault _ _ _ _
  · rcases illegalWord_cases w (s.taken (.issue w) rest) with ⟨-, hw⟩ | ⟨-, hw⟩ <;> rw [hw]
    · exact htaken _ _
    · exact hfault _ _ _ _
  · cases hr : txn.isRead with
    | false => exact hhost txn _ hr (htaken _ _)
    | true =>
      obtain ⟨sp, k, rfl⟩ : ∃ sp k, txn = .read sp k := by
        cases txn with
        | read sp k => exact ⟨sp, k, rfl⟩
        | _ => cases hr
      rw [hostAccess, taken_read, hostRead_taken]
      exact hport s _ _ s.freeIdx hs

end Sys2Proof.Machine
end

section
/-! SUPPORT. The grid as the phase says (rules R41, R50, R51, R56, R273): the structural patterns keep the square and
set column 6, the scan sets every other cell. -/

namespace Sys2Proof.Machine

/-! ## Cells of a square grid -/

/-- A property of all cells, by rows or by coordinates. -/
theorem Grid.forall_mem_iff {g : Grid} {mc : Nat} (hg : g.square mc) (p : GridCell → Prop) :
    (∀ row ∈ g, ∀ c ∈ row, p c) ↔ ∀ r < mc, ∀ c < mc, p (g.cell r c) := by
  obtain ⟨hlen, hrow⟩ := hg
  have hcell : ∀ r (hr : r < g.length) c (hc : c < g[r].length), g.cell r c = g[r][c] := fun r hr c hc => by
    simp [Grid.cell, hr, hc]
  constructor
  · intro h r hr c hc
    have hr' : r < g.length := by omega
    have hc' : c < g[r].length := by rwa [hrow _ (List.getElem_mem hr')]
    rw [hcell r hr' c hc']
    exact h _ (List.getElem_mem _) _ (List.getElem_mem _)
  · intro h row hr c hc
    obtain ⟨i, hi, rfl⟩ := List.mem_iff_getElem.mp hr
    obtain ⟨j, hj, rfl⟩ := List.mem_iff_getElem.mp hc
    rw [← hcell i hi j hj]
    exact h i (by omega) j (by rwa [← hrow _ (List.getElem_mem hi)])

/-- A cell that is set stays set, wherever a write goes. -/
theorem Grid.put_int_keeps_set {g : Grid} {mc : Nat} (hg : g.square mc) {r c : Nat} (row col : Int) (dark : Bool)
    (h : g.cell r c ≠ .unset) : (g.put row col dark).cell r c ≠ .unset := by
  by_cases hneg : row < 0 ∨ col < 0
  · rwa [Grid.put_negative hneg]
  · obtain ⟨m, rfl⟩ := Int.eq_ofNat_of_zero_le (show 0 ≤ row by omega)
    obtain ⟨n, rfl⟩ := Int.eq_ofNat_of_zero_le (show 0 ≤ col by omega)
    exact Grid.put_keeps_set hg h

/-! ## The structural patterns

Each pattern is a sequence of writes, so it keeps what a write keeps. -/

section
variable {Q : Grid → Prop} (hput : ∀ g row col dark, Q g → Q (g.put row col dark)) {g : Grid}
include hput

theorem placeFinder_keeps {mc : Nat} {row col : Int} (hg : Q g) : Q (placeFinder mc row col g) :=
  List.foldlRecOn _ _ hg fun g hg p _ => by
    obtain ⟨r, c⟩ := p
    dsimp only
    split
    · exact hg
    · exact hput _ _ _ _ hg

theorem placeFinders_keeps {mc : Nat} (hg : Q g) : Q (placeFinders mc g) :=
  placeFinder_keeps hput (placeFinder_keeps hput (placeFinder_keeps hput hg))

theorem placeAlignmentAt_keeps {row col : Nat} (hg : Q g) : Q (placeAlignmentAt row col g) := by
  unfold placeAlignmentAt
  split
  · exact hg
  · exact List.foldlRecOn _ _ hg fun g hg p _ => hput _ _ _ _ hg

theorem placeAlignment_keeps {version : Nat} (hg : Q g) : Q (placeAlignment rom version g) :=
  List.foldlRecOn _ _ hg fun _ hg _ _ => List.foldlRecOn _ _ hg fun _ hg _ _ => placeAlignmentAt_keeps hput hg

theorem putUnset_keeps {row col : Nat} {dark : Bool} (hg : Q g) : Q (g.putUnset row col dark) := by
  unfold Grid.putUnset
  split
  · exact hput _ _ _ _ hg
  · exact hg

theorem placeFormat_keeps {mc level : Nat} {test : Bool} {mask : Fin 8} (hg : Q g) :
    Q (placeFormat rom mc level test mask g) :=
  hput _ _ _ _ (List.foldlRecOn _ _ hg fun _ hg _ _ => hput _ _ _ _ (hput _ _ _ _ hg))

theorem placeVersion_keeps {mc version : Nat} {test : Bool} (hg : Q g) : Q (placeVersion rom mc version test g) := by
  unfold placeVersion
  split
  · exact hg
  · exact List.foldlRecOn _ _ hg fun _ hg _ _ => hput _ _ _ _ (hput _ _ _ _ hg)

end

section
variable {mc : Nat} {g : Grid}

theorem putUnset_set (hg : g.square mc) {row col : Nat} (dark : Bool) (hr : row < mc) (hc : col < mc) :
    (g.putUnset row col dark).cell row col ≠ .unset := by
  unfold Grid.putUnset
  split
  · rw [Grid.cell_put hg, if_pos ⟨rfl, rfl, hr, hc⟩]
    exact GridCell.ofBool_ne_unset _
  · assumption

/-- A write keeps the square, in the form the lemmas above take it. -/
theorem square_put (g : Grid) (row col : Int) (dark : Bool) (hg : g.square mc) : (g.put row col dark).square mc :=
  Grid.square_put hg row col dark

/-- A write keeps the square and a set cell in it. -/
theorem square_set_put (r c : Nat) (g : Grid) (row col : Int) (dark : Bool) (h : g.square mc ∧ g.cell r c ≠ .unset) :
    (g.put row col dark).square mc ∧ (g.put row col dark).cell r c ≠ .unset :=
  ⟨square_put _ _ _ _ h.1, Grid.put_int_keeps_set h.1 _ _ _ h.2⟩

/-- The timing pattern keeps the square and sets column 6 (rule R255). -/
theorem placeTiming_set (hg : g.square mc) (h6 : 6 < mc) :
    (placeTiming mc g).square mc ∧ ∀ r < mc, (placeTiming mc g).cell r 6 ≠ .unset := by
  have hcolumn : ∀ n ≤ mc,
      let g' := (List.range n).foldl (fun g r => g.putUnset r 6 (r % 2 == 0)) g
      g'.square mc ∧ ∀ r < n, g'.cell r 6 ≠ .unset := by
    intro n
    induction n with
    | zero => exact fun _ => ⟨hg, fun r hr => absurd hr (Nat.not_lt_zero r)⟩
    | succ n ih =>
      intro hn
      obtain ⟨hsq, hset⟩ := ih (by omega)
      dsimp only at hsq hset ⊢
      rw [List.range_succ, List.foldl_append, List.foldl_cons, List.foldl_nil]
      refine ⟨putUnset_keeps square_put hsq, fun r hr => ?_⟩
      rcases Nat.lt_succ_iff_lt_or_eq.mp hr with hlt | rfl
      · exact (putUnset_keeps (square_set_put r 6) ⟨hsq, hset r hlt⟩).2
      · exact putUnset_set hsq _ (by omega) h6
  obtain ⟨hsq, hset⟩ := hcolumn mc le_rfl
  have hrow : ∀ Q : Grid → Prop, (∀ g row col dark, Q g → Q (g.put row col dark)) →
      Q ((List.range mc).foldl (fun g r => g.putUnset r 6 (r % 2 == 0)) g) → Q (placeTiming mc g) :=
    fun Q hput hg => List.foldlRecOn (motive := Q) _ _ hg fun _ hg _ _ => putUnset_keeps hput hg
  exact ⟨hrow _ square_put hsq, fun r hr => (hrow _ (square_set_put r 6) ⟨hsq, hset r hr⟩).2⟩

/-- The structural patterns keep the square and set column 6 (rules R252 to R266). -/
theorem structuralPatterns_set {version level : Nat} {test : Bool} {mask : Fin 8} (hg : g.square mc) (h6 : 6 < mc) :
    (structuralPatterns rom mc version level test mask g).square mc ∧
      ∀ r < mc, (structuralPatterns rom mc version level test mask g).cell r 6 ≠ .unset := by
  obtain ⟨hsq, hset⟩ := placeTiming_set (g := placeAlignment rom version (placeFinders mc g))
    (placeAlignment_keeps square_put (placeFinders_keeps square_put hg)) h6
  exact ⟨placeVersion_keeps square_put (placeFormat_keeps square_put hsq), fun r hr =>
    (placeVersion_keeps (square_set_put r 6) (placeFormat_keeps (square_set_put r 6) ⟨hsq, hset r hr⟩)).2⟩

end

/-! ## The invariant -/

/-- A legal side is odd and not below 21 (rule R51). -/
theorem legalSide_bounds {mc : Nat} (h : legalSide mc) : mc % 2 = 1 ∧ 21 ≤ mc ∧ mc ≤ Config.gridMax := by
  obtain ⟨v, hv, rfl⟩ := h
  have := List.mem_range'_1.mp hv
  simp only [sideOf, Config.gridMax]
  omega

theorem legalSide_sideOf {v : Nat} (h : versionInRange v = true) : legalSide (sideOf v) := by
  simp only [versionInRange, Bool.and_eq_true, decide_eq_true_eq] at h
  exact ⟨v, List.mem_range'_1.mpr (by omega), rfl⟩

/-- A unit without a grid. -/
theorem gridMatchesPhase_none {s : State} (hm : s.modCnt = 0) (hg : s.grid = []) (hp : s.phase = .empty)
    (hfinal : s.final = false) (htest : s.testF = false) : s.gridMatchesPhase := by
  simp [State.gridMatchesPhase, hm, hg, hp, hfinal, htest, Phase.resolved]

/-- A command that is not a sequence of others keeps the grid as its phase says. -/
theorem gridMatchesPhase_completes {i : Instr} {s t : State} (hs : s.gridMatchesPhase) (h : Completes s i t) :
    t.gridMatchesPhase := by
  obtain ⟨hside, hsquare, hnonzero, hempty, hcolumn, hresolved, hfinal, htest⟩ := id hs
  cases h with
  | nop | reset | scalar | poly | bbClr | append | segEnc | rsBlocks | rsEnc | score => exact hs
  | csrw hw => rw [csrWrite_hostPart hw]; exact hs
  | gridInit hv =>
    have hblank := Grid.square_blank (sideOf s.version.toNat)
    refine ⟨.inr (legalSide_sideOf hv), hblank, nofun, fun _ => ?_, nofun, nofun, ⟨nofun, nofun⟩, fun _ => rfl⟩
    exact (Grid.forall_mem_iff hblank _).mpr fun r _ c _ => Grid.cell_blank _ r c
  | gridStruct hm hp h0 hv =>
    obtain ⟨-, hlarge, -⟩ := legalSide_bounds (hside.resolve_left h0)
    obtain ⟨hsq, hset⟩ := structuralPatterns_set (version := s.version.toNat) (level := s.level.toNat)
      (test := _) (mask := ⟨_, hm⟩) hsquare (show 6 < s.modCnt by omega)
    refine ⟨hside, hsq, fun _ => h0, nofun, fun _ => hset, nofun, ?_, ?_⟩
    · rw [hfinal, hp]
      exact ⟨nofun, nofun⟩
    · rintro (h | h) <;> cases h
  | gridMap hm hp hv hd =>
    have h0 : s.modCnt ≠ 0 := hnonzero (by rw [hp]; nofun)
    obtain ⟨hodd, hlarge, -⟩ := legalSide_bounds (hside.resolve_left h0)
    have hsq : (mapData s.modCnt s.cw s.mask s.grid).square s.modCnt := square_mapData hsquare
    refine ⟨hside, hsq, fun _ => h0, nofun, nofun, fun _ => ?_, ?_, ?_⟩
    · exact (Grid.forall_mem_iff hsq _).mpr fun r hr c hc =>
        mapData_set hsquare hodd (by omega) (hcolumn hp) hr hc
    · rw [hfinal, hp]
      exact ⟨nofun, nofun⟩
    · rintro (h | h) <;> cases h
  | gridFin hp ht =>
    exact ⟨hside, hsquare, fun _ => hnonzero (by rw [hp]; nofun), nofun, nofun,
      fun _ => hresolved (by rw [hp]; rfl), ⟨fun _ => rfl, fun _ => rfl⟩, fun _ => ht⟩

theorem gridMatchesPhase_bodyOf (i : Instr) {s : State} (hs : s.gridMatchesPhase) :
    EndsIn State.gridMatchesPhase State.gridMatchesPhase (bodyOf i s) :=
  bodyOf_endsIn
    (fun _ _ hi hm hs => bodyOf_endsIn_of_completes hi hm hs fun _ h => gridMatchesPhase_completes hs h)
    (hclear := fun _ h => h) (hversion := fun _ _ h => h) (hbest := fun _ _ _ h => h) i hs

/-- The host cannot write the grid, and the reset input drops it. -/
theorem gridMatchesPhase_hostAccess {txn : HostTxn} {s : State} (hr : txn.isRead = false) (hs : s.gridMatchesPhase) :
    (hostAccess txn s).gridMatchesPhase := by
  rcases hostAccess_hostPart hr s with h | h <;> rw [h]
  · exact hs
  · exact gridMatchesPhase_none rfl rfl rfl rfl rfl

/-- Settles O17: every command that completes keeps the grid as its phase says, the scan of `GRID.MAP` leaving no cell
unset, and a fault or a reset drops the grid. -/
theorem gridStaysAsItsPhaseSays : Obligations.GridStaysAsItsPhaseSays := by
  unfold Obligations.GridStaysAsItsPhaseSays
  intro s t hs h
  exact step_keeps_of_fault (P := State.gridMatchesPhase)
    (hport := fun _ _ _ _ h => h)
    (hclear := fun _ => gridMatchesPhase_none rfl rfl rfl rfl rfl)
    (hok := fun i _ _ _ hs hb => (gridMatchesPhase_bodyOf i hs).ok_of hb)
    (hfault := fun _ _ _ _ => gridMatchesPhase_none rfl rfl rfl rfl rfl)
    (hhost := fun _ _ hr hs => gridMatchesPhase_hostAccess hr hs)
    hs h

end Sys2Proof.Machine
end

section
/-! SUPPORT. The composite commands over the commands they are sequences of: a predicate that those parts keep is kept
by `MAKEIMPL` and by the trials of `MAKE`, and what holds of every trial's score holds of the winner's (rules R223,
R270, R276, R280, R281). -/

namespace Sys2Proof.Machine

section
variable {α : Type} {P P' : State → Prop} {post post' : α → Prop}

/-- A weaker claim about how a rule ends. -/
theorem EndsIn.mono {r : Except Stop α} (h : EndsIn P post r) (hP : ∀ s, P s → P' s) (hpost : ∀ a, post a → post' a) :
    EndsIn P' post' r := by
  cases r with
  | ok a => exact hpost a h
  | error e => exact hP _ h

end

/-- The commands of which `MAKEIMPL` is a sequence (rules R270, R276). -/
def isLayoutPart : Instr → Bool
  | .bbClr | .dataSeg | .dataFin | .rsEnc | .gridInit | .gridStruct _ _ | .gridMap _ => true
  | _ => false

section
variable {P : State → Prop} {s : State}
  (hpart : ∀ i s t, isLayoutPart i = true → P s → Completes s i t → P t)
include hpart

/-- A part, however it ends; when it completes, how. -/
theorem layoutPart_endsIn {i : Instr} (hi : isLayoutPart i = true) (hs : P s) :
    EndsIn P (fun t => P t ∧ Completes s i t) (bodyOf i s) := by
  obtain ⟨hi', hm⟩ : i.isMakeimpl = false ∧ i ≠ .make := by
    constructor
    · cases i with
      | makeimpl => cases hi
      | _ => rfl
    · rintro rfl; cases hi
  exact .of_ok (bodyOf_raisesInPlace hi' hm s) hs fun t h =>
    have hc := bodyOf_completes hi' hm h
    ⟨hpart _ _ _ hi hs hc, hc⟩

theorem ensureData_endsIn_of_parts (hs : P s) : EndsIn P P (ensureData rom s) := by
  rcases ensureData_cases s with ⟨-, h⟩ | ⟨-, h⟩ <;> rw [h]
  · exact hs
  · exact .bind (layoutPart_endsIn hpart (i := .dataSeg) rfl (hpart .bbClr s _ rfl hs .bbClr)) fun _ h1 =>
      .bind (layoutPart_endsIn hpart (i := .dataFin) rfl h1.1) fun _ h2 =>
        (layoutPart_endsIn hpart (i := .rsEnc) rfl h2.1).mono (fun _ h => h) fun _ h3 => h3.1

/-- `MAKEIMPL` ends with its `GRID.MAP`, which needs a valid stream (rules R272, R276). -/
theorem bodyMakeimpl_endsIn_of_parts (test : Bool) (mask : BitVec 4) (hs : P s) :
    EndsIn P (fun t => P t ∧ t.dcValid = true) (bodyMakeimpl rom test mask s) :=
  .bind (.of_ok (post := fun _ => True) (maskOperand_inPlace mask s) hs fun _ _ => trivial) fun _ _ =>
    .bind (layoutPart_endsIn hpart (i := .gridInit) rfl hs) fun _ h1 =>
      .bind (layoutPart_endsIn hpart (i := .gridStruct test mask) rfl h1.1) fun _ h2 =>
        .bind (ensureData_endsIn_of_parts hpart h2.1) fun _ h3 =>
          (layoutPart_endsIn hpart (i := .gridMap mask) rfl h3).mono (fun _ h => h) fun _ h4 =>
            ⟨h4.1, by cases h4.2 with | gridMap _ _ _ hd => exact hd | _ => contradiction⟩

section
variable {Q : Trial → Prop} (htrial : ∀ s p, P s → Q ⟨p, lostPoint s.grid s.modCnt⟩)
include htrial

theorem runTrial_endsIn_of_parts (p : Fin 8) (hs : P s) :
    EndsIn P (fun r => P r.1 ∧ Q r.2) (runTrial rom p s) :=
  .bind (bodyMakeimpl_endsIn_of_parts hpart true (maskBits p) hs) fun _ h => ⟨h.1, htrial _ _ h.1⟩

theorem runTrials_endsIn_of_parts (ps : List (Fin 8)) {best : Trial} (hs : P s) (hbest : Q best) :
    EndsIn P (fun r => P r.1 ∧ Q r.2) (runTrials rom ps s best) := by
  induction ps generalizing s best with
  | nil => exact ⟨hs, hbest⟩
  | cons p ps ih =>
    refine .bind (runTrial_endsIn_of_parts hpart htrial p hs) fun r h => ih h.1 ?_
    unfold betterTrial
    split
    · exact h.2
    · exact hbest

theorem selectMask_endsIn_of_parts (hs : P s) : EndsIn P (fun r => P r.1 ∧ Q r.2) (selectMask rom s) :=
  .bind (runTrial_endsIn_of_parts hpart htrial 0 hs) fun _ h => runTrials_endsIn_of_parts hpart htrial _ h.1 h.2

/-- `MAKE` from the state its segment and version leave; its end is `GRID.FIN` and the winner's mask and score. -/
theorem bodyMake_endsIn_of_parts {post : State → Prop}
    (hstart : EndsIn P P (bodySegEnc s.clearDcValid >>= resolveVersion rom))
    (hfinish : ∀ s t best, P s → s.dcValid = true → Q best → Completes s .gridFin t →
      post (({ t with mask := best.pattern } : State).writeScore best.score)) :
    EndsIn P post (bodyMake rom s) := by
  have hrest : ∀ s, P s → EndsIn P post (do
      let (s, best) ← selectMask rom s
      let s ← bodyMakeimpl rom false (maskBits best.pattern) s
      let s ← bodyGridFin s
      return ({ s with mask := best.pattern } : State).writeScore best.score) := fun s hs =>
    .bind (selectMask_endsIn_of_parts hpart htrial hs) fun r hr =>
      .bind (bodyMakeimpl_endsIn_of_parts hpart false (maskBits r.2.pattern) hr.1) fun u hu =>
        .bind (.of_ok (bodyOf_raisesInPlace (i := .gridFin) rfl nofun u) hu.1 fun t ht =>
          hfinish u t r.2 hu.1 hu.2 hr.2 (bodyOf_completes rfl nofun ht)) fun _ h => h
  have hmake : bodyMake rom s = (bodySegEnc s.clearDcValid >>= resolveVersion rom) >>= fun s => do
      let (s, best) ← selectMask rom s
      let s ← bodyMakeimpl rom false (maskBits best.pattern) s
      let s ← bodyGridFin s
      return ({ s with mask := best.pattern } : State).writeScore best.score := by
    rw [bind_assoc]
    rfl
  rw [hmake]
  exact .bind hstart hrest

end
end

/-- The segment and the version of `MAKE`, for a predicate that no write of theirs breaks. -/
theorem makeStart_endsIn {P : State → Prop} {s : State} (hclear : P s.clearDcValid)
    (hseg : ∀ s t, P s → Completes s .segEnc t → P t) (hversion : ∀ s v, P s → P { s with version := v }) :
    EndsIn P P (bodySegEnc s.clearDcValid >>= resolveVersion rom) :=
  .bind (bodyOf_endsIn_of_completes (i := .segEnc) rfl nofun hclear fun _ h => hseg _ _ hclear h) fun _ h =>
    resolveVersion_endsIn hversion h

end Sys2Proof.Machine
end

section
/-! SUPPORT. A valid stream is the stream of the bit buffer (rules R55, R77, R186, R355): `RS.ENC` alone sets DCVALID
beside the stream it has computed, and whatever writes the bit buffer, VERSION or LEVEL clears it. -/

namespace Sys2Proof.Machine

/-- Without DCVALID nothing is claimed of the stream. -/
theorem streamValid_of_clear {s : State} (h : s.dcValid = false) : s.streamValid := fun hd => by
  rw [h] at hd
  cases hd

theorem streamValid_csrWrite {s t : State} {n : Nat} {w : Word} (hs : s.streamValid)
    (h : s.csrWrite n w = .written t) : t.streamValid := by
  rcases csrWrite_written h with ⟨-, rfl⟩ | ⟨-, rfl⟩ | ⟨-, rfl⟩ | ⟨-, rfl⟩ | ⟨-, rfl⟩
  · exact streamValid_of_clear rfl
  · exact streamValid_of_clear rfl
  · exact hs
  · exact streamValid_of_clear rfl
  · exact hs

theorem streamValid_completes {i : Instr} {s t : State} (hs : s.streamValid) (h : Completes s i t) :
    t.streamValid := by
  cases h with
  | rsEnc hb hlen hout => exact fun _ => ⟨_, hb, hlen, hout⟩
  | csrw hw => exact streamValid_csrWrite hs hw
  | bbClr | append | segEnc => exact streamValid_of_clear rfl
  | nop | reset | scalar | poly | rsBlocks | score | gridInit | gridStruct | gridMap | gridFin => exact hs

/-- `MAKE` clears DCVALID before it writes SEG and VERSION. -/
theorem streamValid_bodyMake (s : State) : EndsIn State.streamValid State.streamValid (bodyMake rom s) := by
  have hstart : EndsIn (fun s => s.dcValid = false) (fun s => s.dcValid = false)
      (bodySegEnc s.clearDcValid >>= resolveVersion rom) :=
    makeStart_endsIn rfl (fun _ _ _ h => by cases h with | segEnc => rfl | _ => contradiction) fun _ _ h => h
  exact bodyMake_endsIn_of_parts (Q := fun _ => True) (fun _ _ _ _ hs h => streamValid_completes hs h)
    (fun _ _ _ => trivial)
    (hstart.mono (fun _ => streamValid_of_clear) fun _ => streamValid_of_clear)
    fun _ _ _ hs _ _ h => (streamValid_completes hs h :)

theorem streamValid_bodyOf (i : Instr) {s t : State} (hs : s.streamValid) (h : bodyOf i s = .ok t) :
    t.streamValid := by
  cases hi : i.isMakeimpl with
  | true =>
    cases i <;> cases hi
    exact ((bodyMakeimpl_endsIn_of_parts (fun _ _ _ _ hs h => streamValid_completes hs h) _ _ hs).ok_of h).1
  | false =>
    by_cases hm : i = .make
    · subst hm
      exact (streamValid_bodyMake s).ok_of h
    · exact streamValid_completes hs (bodyOf_completes hi hm h)

/-- A host write that could make the stream stale clears DCVALID (rule R55). -/
theorem streamValid_hostAccess {txn : HostTxn} {s : State} (hr : txn.isRead = false) (hs : s.streamValid) :
    (hostAccess txn s).streamValid := by
  rcases hostAccess_cases hr s with h | ⟨r, w, h⟩ | ⟨n, w, h⟩ | ⟨m, h⟩ | ⟨m, h⟩ | ⟨m, h⟩ | h
  case inr.inr.inl => exact streamValid_csrWrite hs h
  case inr.inr.inr.inr.inr.inl => rw [h]; exact streamValid_of_clear rfl
  case inr.inr.inr.inr.inr.inr => rw [h]; exact streamValid_of_clear rfl
  all_goals rw [h]; exact hs

/-- Settles O19: only `RS.ENC` sets DCVALID, with the stream it has just computed, and every write that would make the
stream stale clears it. -/
theorem validStreamIsTheStreamOfTheBitBuffer : Obligations.ValidStreamIsTheStreamOfTheBitBuffer := by
  unfold Obligations.ValidStreamIsTheStreamOfTheBitBuffer
  intro s t hs h
  exact step_keeps_of_fault (P := State.streamValid)
    (hport := fun _ _ _ _ h => h)
    (hclear := fun _ => streamValid_of_clear rfl)
    (hok := fun i _ _ _ hs hb => streamValid_bodyOf i hs hb)
    (hfault := fun _ _ _ _ => streamValid_of_clear rfl)
    (hhost := fun _ _ hr hs => streamValid_hostAccess hr hs)
    hs h

end Sys2Proof.Machine
end

section
/-! SUPPORT. The record of a fault (rules R54, R330, R331): fault entry writes it whole, a reset clears it whole, no rule
of a command writes a part of it, and the host can only clear DCVALID, which a faulted unit has at 0 already. -/

namespace Sys2Proof.Machine

/-- No fault is recorded. -/
def State.unfaulted (s : State) : Prop := s.fault = false ∧ s.cause = none ∧ s.finfo = 0 ∧ s.fcmd = 0

theorem faultRecorded_of_unfaulted {s : State} (h : s.unfaulted) : s.faultRecorded := by
  obtain ⟨hf, hc, hi, hw⟩ := h
  simp [State.faultRecorded, hf, hc, hi, hw]

theorem unfaulted_of_faultRecorded {s : State} (h : s.faultRecorded) (hf : s.fault = false) : s.unfaulted := by
  obtain ⟨hcause, hrecord, -⟩ := h
  obtain ⟨hinfo, hcmd⟩ := hrecord hf
  rw [hf] at hcause
  exact ⟨hf, by simpa using hcause, hinfo, hcmd⟩

/-- The registers of the record are those of another state. -/
def State.SameRecord (s t : State) : Prop :=
  t.fault = s.fault ∧ t.cause = s.cause ∧ t.finfo = s.finfo ∧ t.fcmd = s.fcmd

theorem sameRecord_completes {i : Instr} {s u t : State} (hu : s.SameRecord u) (h : Completes u i t) :
    s.SameRecord t := by
  cases h with
  | csrw hw => rw [csrWrite_hostPart hw]; exact hu
  | _ => exact hu

/-- No rule of a command writes a part of the record. -/
theorem sameRecord_of_ok {i : Instr} {s t : State} (h : bodyOf i s = .ok t) : s.SameRecord t :=
  (bodyOf_endsIn (P := s.SameRecord)
    (fun _ _ hi hm hu => bodyOf_endsIn_of_completes hi hm hu fun _ h => sameRecord_completes hu h)
    (hclear := fun _ h => h) (hversion := fun _ _ h => h) (hbest := fun _ _ _ h => h) i ⟨rfl, rfl, rfl, rfl⟩).ok_of h

theorem unfaulted_of_ok {i : Instr} {s t : State} (hs : s.unfaulted) (h : bodyOf i s = .ok t) : t.unfaulted := by
  obtain ⟨hf, hc, hi, hw⟩ := hs
  obtain ⟨hf', hc', hi', hw'⟩ := sameRecord_of_ok h
  exact ⟨hf'.trans hf, hc'.trans hc, hi'.trans hi, hw'.trans hw⟩

theorem faultRecorded_faultEntry (w : Word) (c : Cause) (info : Int) (s : State) :
    (faultEntry w c info s).faultRecorded := by
  simp [State.faultRecorded]

theorem faultRecorded_clearDcValid {s : State} (h : s.faultRecorded) : s.clearDcValid.faultRecorded := by
  obtain ⟨hcause, hrecord, hdropped⟩ := h
  refine ⟨hcause, hrecord, fun hf => ?_⟩
  obtain ⟨hphase, hside, hgrid, -, hfinal, htest⟩ := hdropped hf
  exact ⟨hphase, hside, hgrid, rfl, hfinal, htest⟩

theorem faultRecorded_csrWrite {s t : State} {n : Nat} {w : Word} (hs : s.faultRecorded)
    (h : s.csrWrite n w = .written t) : t.faultRecorded := by
  have hcleared := faultRecorded_clearDcValid hs
  rcases csrWrite_written h with ⟨-, rfl⟩ | ⟨-, rfl⟩ | ⟨-, rfl⟩ | ⟨-, rfl⟩ | ⟨-, rfl⟩
  · exact hcleared
  · exact hcleared
  · exact hs
  · exact hcleared
  · exact hs

theorem faultRecorded_hostAccess {txn : HostTxn} {s : State} (hr : txn.isRead = false) (hs : s.faultRecorded) :
    (hostAccess txn s).faultRecorded := by
  rcases hostAccess_cases hr s with h | ⟨r, w, h⟩ | ⟨n, w, h⟩ | ⟨m, h⟩ | ⟨m, h⟩ | ⟨m, h⟩ | h
  case inr.inr.inl => exact faultRecorded_csrWrite hs h
  case inr.inr.inr.inr.inr.inl => rw [h]; exact faultRecorded_clearDcValid hs
  case inr.inr.inr.inr.inr.inr => rw [h]; exact faultRecorded_of_unfaulted ⟨rfl, rfl, rfl, rfl⟩
  all_goals rw [h]; exact hs

/-- Settles O18: fault entry writes the whole record and drops the grid, the stream and the flags, and nothing else
writes a part of it. -/
theorem faultRecordStaysConsistent : Obligations.FaultRecordStaysConsistent := by
  unfold Obligations.FaultRecordStaysConsistent
  intro s t hs h
  exact step_keeps_of_fault (P := State.faultRecorded)
    (hport := fun _ _ _ _ h => h)
    (hclear := fun _ => faultRecorded_of_unfaulted ⟨rfl, rfl, rfl, rfl⟩)
    (hok := fun _ _ _ hf hs hb =>
      faultRecorded_of_unfaulted (unfaulted_of_ok (unfaulted_of_faultRecorded hs hf) hb))
    (hfault := faultRecorded_faultEntry)
    (hhost := fun _ _ hr hs => faultRecorded_hostAccess hr hs)
    hs h

end Sys2Proof.Machine
end

section
/-! SUPPORT. Polynomial registers hold what the construction makes (rules R33, R34): the construction strips leading
zeros, and products, remainders and generators end in it. -/

namespace Sys2Proof.Machine

/-! ## What the arithmetic makes -/

/-- A constructed polynomial has a leading zero only when all its coefficients are zero (rule R34). -/
theorem poly_zero_of_head {raw : List Byte} {shift : Nat} (h : (poly raw shift).head? = some 0) :
    ∀ a ∈ poly raw shift, a = 0 := by
  unfold poly at h ⊢
  cases hd : raw.dropWhile (· == 0) with
  | nil =>
    intro a ha
    rw [List.nil_append] at ha
    exact (List.mem_replicate.mp ha).2
  | cons c cs =>
    have hhead := List.head?_dropWhile_not (· == 0) raw
    rw [hd] at h hhead
    obtain rfl : c = 0 := by simpa using h
    cases hhead

theorem constructed_poly {raw : List Byte} {shift : Nat} (h : (poly raw shift).length ≤ Config.polyMax) :
    Poly.constructed (poly raw shift) := ⟨h, poly_zero_of_head⟩

/-- A polynomial that the construction has made, of whatever length. -/
def Poly.stripped (c : Poly) : Prop := ∃ raw, c = poly raw 0

theorem Poly.stripped.constructed {c : Poly} (h : c.stripped) (hl : c.length ≤ Config.polyMax) : c.constructed := by
  obtain ⟨raw, rfl⟩ := h
  exact constructed_poly hl

theorem pmul_stripped {a b c : Poly} (h : pmul a b = .ok c) : c.stripped := by
  unfold pmul at h
  split at h
  · cases h
  · obtain ⟨num, -, h⟩ := bind_eq_ok h
    cases h
    exact ⟨num, rfl⟩

theorem generatorFrom_stripped {n i : Nat} {g c : Poly} (hg : g.stripped) (h : generatorFrom n i g = .ok c) :
    c.stripped := by
  induction n generalizing i g with
  | zero => cases h; exact hg
  | succ n ih =>
    obtain ⟨g', hg', h⟩ := bind_eq_ok h
    exact ih (pmul_stripped hg') h

theorem generator_stripped {ec : Nat} {g : Poly} (h : generator ec = .ok g) : g.stripped :=
  generatorFrom_stripped ⟨[1], rfl⟩ h

/-- A remainder is the dividend, or what a pass has constructed (rule R124). -/
theorem pmodLoop_stripped {e a c : Poly} {rounds : Nat} (h : pmodLoop e rounds a = .ok c) : c = a ∨ c.stripped := by
  induction rounds generalizing a with
  | zero => cases h; exact .inl rfl
  | succ rounds ih =>
    unfold pmodLoop at h
    split at h
    next => cases h; exact .inl rfl
    next =>
      obtain ⟨a', hpass, h⟩ := bind_eq_ok h
      obtain ⟨la, -, hpass⟩ := bind_eq_ok hpass
      obtain ⟨le, -, hpass⟩ := bind_eq_ok hpass
      obtain ⟨num, -, hpass⟩ := bind_eq_ok hpass
      cases hpass
      rcases ih h with rfl | hc
      · exact .inr ⟨num, rfl⟩
      · exact .inr hc

theorem pmod_constructed {a e c : Poly} (ha : a.constructed) (he : e.constructed) (h : pmod a e = .ok c) :
    c.constructed := by
  have hl : c.length ≤ Config.polyMax := (pmod_length_lt h).le.trans he.1
  unfold pmod at h
  split at h
  next => cases h
  next =>
    rcases pmodLoop_stripped h with rfl | hc
    · exact ha
    · exact hc.constructed hl

/-! ## The invariant -/

theorem polysConstructed_writeP {s : State} {pd : PReg} {c : Poly} (hs : s.polysConstructed) (hc : c.constructed) :
    (s.writeP pd c).polysConstructed := by
  intro k
  have hk : (s.writeP pd c).readP k = if pd = k then c else s.readP k := by
    simp [State.readP, State.writeP, Vector.getElem_set, Fin.ext_iff]
  rw [hk]
  split
  · exact hc
  · exact hs k

theorem polysConstructed_storePoly {s t : State} {pd : PReg} {c : Poly} (hs : s.polysConstructed)
    (hc : c.length ≤ Config.polyMax → c.constructed) (h : storePoly pd c s = .ok t) : t.polysConstructed := by
  obtain ⟨hl, rfl⟩ := storePoly_eq_ok h
  exact polysConstructed_writeP hs (hc hl)

/-- A command with a polynomial destination stores a constructed polynomial. -/
theorem polysConstructed_bodyOf_poly {i : Instr} {pd : PReg} {s t : State} (hd : i.polyDest = some pd)
    (hs : s.polysConstructed) (h : bodyOf i s = .ok t) : t.polysConstructed := by
  cases i <;> simp only [Instr.polyDest, reduceCtorEq] at hd <;> simp only [bodyOf] at h
  case polyNew => exact polysConstructed_storePoly hs constructed_poly h
  case polyMul =>
    obtain ⟨c, hc, h⟩ := bind_eq_ok h
    exact polysConstructed_storePoly hs (pmul_stripped (liftRaise_eq_ok hc)).constructed h
  case polyMod pa pb =>
    obtain ⟨c, hc, h⟩ := bind_eq_ok h
    cases h
    exact polysConstructed_writeP hs (pmod_constructed (hs _) (hs _) (liftRaise_eq_ok hc))
  case rsGen =>
    obtain ⟨c, hc, h⟩ := bind_eq_ok h
    exact polysConstructed_storePoly hs (generator_stripped (liftRaise_eq_ok hc)).constructed h

/-- A command that is not a sequence of others, however it ends. -/
theorem polysConstructed_stepwise {i : Instr} {s : State} (hi : i.isMakeimpl = false) (hm : i ≠ .make)
    (hs : s.polysConstructed) : EndsIn State.polysConstructed State.polysConstructed (bodyOf i s) := by
  refine .of_ok (bodyOf_raisesInPlace hi hm s) hs fun t h => ?_
  cases bodyOf_completes hi hm h with
  | poly hd => exact polysConstructed_bodyOf_poly hd hs h
  | csrw hw => rw [csrWrite_hostPart hw]; exact hs
  | _ => exact hs

theorem polysConstructed_clear (s : State) : s.clear.polysConstructed := by
  intro k
  have hk : s.clear.readP k = [] := by simp [State.readP]
  rw [hk]
  exact ⟨Nat.zero_le _, nofun⟩

/-- The host cannot write the polynomial registers, and the reset input clears them. -/
theorem polysConstructed_hostAccess {txn : HostTxn} {s : State} (hr : txn.isRead = false) (hs : s.polysConstructed) :
    (hostAccess txn s).polysConstructed := by
  rcases hostAccess_hostPart hr s with h | h <;> rw [h]
  · exact hs
  · exact polysConstructed_clear _

/-- Settles O15: the four commands that write a polynomial register store what the construction makes, bounded by the
check before the store or by the divisor. -/
theorem polynomialRegistersStayConstructed : Obligations.PolynomialRegistersStayConstructed := by
  unfold Obligations.PolynomialRegistersStayConstructed
  intro s t hs h
  exact step_keeps (P := State.polysConstructed)
    (hport := fun _ _ _ _ h => h)
    (hclear := fun s _ => polysConstructed_clear s)
    (hbody := fun i _ _ _ hs => bodyOf_endsIn (fun _ _ hi hm hs => polysConstructed_stepwise hi hm hs)
      (hclear := fun _ h => h) (hversion := fun _ _ h => h) (hbest := fun _ _ _ h => h) i hs)
    (houtputs := fun i c s hs => by
      rcases outputsOf_cases i c s with h | ⟨-, h⟩ | ⟨-, h⟩ | ⟨-, h⟩ | ⟨-, h⟩ <;> rw [h] <;> exact hs)
    (hfault := fun _ _ _ _ h => h)
    (hhost := fun _ _ hr hs => polysConstructed_hostAccess hr hs)
    hs h

end Sys2Proof.Machine
end

section
/-! SUPPORT. The bit buffer is well formed and grows only (rules R38, R140): every command that writes it appends to it
or empties it, and the free contents a fault leaves are a buffer of bits (log entry 12). -/

namespace Sys2Proof.Machine

open Sys2Proof.Reference

theorem BitBuffer.Extends.wellFormed {b b' : BitBuffer} (h : b.Extends b') (hb : b.wellFormed) : b'.wellFormed := by
  obtain ⟨more, rfl⟩ := h
  exact (BitBuffer.pushAll_spec hb more).1

theorem BitBuffer.Extends.bits_eq {b b' : BitBuffer} (h : b.Extends b') (hb : b.wellFormed) :
    ∃ more, bits b' = bits b ++ more := by
  obtain ⟨more, rfl⟩ := h
  exact ⟨more, (BitBuffer.pushAll_spec hb more).2.2⟩

/-- The bit buffer of any sequence of bits. -/
theorem BitBuffer.wellFormed_ofBits (l : List Bool) : (BitBuffer.ofBits l).wellFormed :=
  (BitBuffer.pushAll_spec BitBuffer.wellFormed_empty l).1

/-- The bit buffer after a command that is not a sequence of others. -/
theorem bb_completes {i : Instr} {s t : State} (h : Completes s i t) :
    (i = .bbClr ∧ t.bb = .empty) ∨ (appendsBits i = true ∧ s.bb.Extends t.bb) ∨ t.bb = s.bb := by
  cases h with
  | bbClr => exact .inl ⟨rfl, rfl⟩
  | append hi hb => exact .inr (.inl ⟨hi, hb⟩)
  | csrw hw => exact .inr (.inr (by rw [csrWrite_hostPart hw]; rfl))
  | _ => exact .inr (.inr rfl)

theorem bbWellFormed_completes {i : Instr} {s t : State} (hs : s.bb.wellFormed) (h : Completes s i t) :
    t.bb.wellFormed := by
  rcases bb_completes h with ⟨-, hb⟩ | ⟨-, hb⟩ | hb
  · rw [hb]; exact BitBuffer.wellFormed_empty
  · exact hb.wellFormed hs
  · rwa [hb]

theorem bbWellFormed_outputsOf (i : Instr) (c : Cause) {s : State} (hs : s.bb.wellFormed) :
    (outputsOf i c s).bb.wellFormed := by
  have hfree : ∀ s : State, s.freeBb.bb.wellFormed := fun _ => BitBuffer.wellFormed_ofBits _
  rcases outputsOf_cases i c s with h | ⟨-, h⟩ | ⟨-, h⟩ | ⟨-, h⟩ | ⟨-, h⟩ <;> rw [h]
  · exact hs
  · exact hfree _
  · exact hs
  · exact hfree _
  · exact hfree _

/-- The host cannot write the bit buffer, and the reset input empties it. -/
theorem bbWellFormed_hostAccess {txn : HostTxn} {s : State} (hr : txn.isRead = false) (hs : s.bb.wellFormed) :
    (hostAccess txn s).bb.wellFormed := by
  rcases hostAccess_hostPart hr s with h | h <;> rw [h]
  · exact hs
  · exact BitBuffer.wellFormed_empty

/-- Settles O16: the commands that write the bit buffer append to it or empty it, and a fault leaves the buffer of some
bits. -/
theorem bitBufferStaysWellFormedAndAppendOnly : Obligations.BitBufferStaysWellFormedAndAppendOnly := by
  unfold Obligations.BitBufferStaysWellFormedAndAppendOnly
  constructor
  · intro s t hs h
    exact step_keeps (P := fun s => s.bb.wellFormed)
      (hport := fun _ _ _ _ h => h)
      (hclear := fun _ _ => BitBuffer.wellFormed_empty)
      (hbody := fun i _ _ _ hs => bodyOf_endsIn
        (fun _ _ hi hm hs => bodyOf_endsIn_of_completes hi hm hs fun _ h => bbWellFormed_completes hs h)
        (hclear := fun _ h => h) (hversion := fun _ _ h => h) (hbest := fun _ _ _ h => h) i hs)
      (houtputs := fun i c _ hs => bbWellFormed_outputsOf i c hs)
      (hfault := fun _ _ _ _ h => h)
      (hhost := fun _ _ hr hs => bbWellFormed_hostAccess hr hs)
      hs h
  · intro i s t hs hf h htf hclr hreset hi hm
    rcases exec_cases h with ⟨hr, -⟩ | ⟨-, hfault, -⟩ | ⟨-, -, hb⟩ | ⟨-, -, e, -, rfl⟩
    · exact absurd hr hreset
    · rw [hf] at hfault; cases hfault
    · rcases bb_completes (bodyOf_completes hi hm hb) with ⟨hc, -⟩ | ⟨-, hbb⟩ | hbb
      · exact absurd hc hclr
      · exact hbb.bits_eq hs
      · exact ⟨[], by rw [hbb, List.append_nil]⟩
    · rw [faultEntry_fault] at htf; cases htf

end Sys2Proof.Machine
end

section
/-! SUPPORT. The scores are bounded by the side of their grid (rules R52, R217 to R221, R303). -/

namespace Sys2Proof.Machine

theorem sumRange_le {n b : Nat} {f : Nat → Nat} (h : ∀ k < n, f k ≤ b) : sumRange n f ≤ n * b := by
  have := List.sum_le_card_nsmul ((List.range n).map f) b (by simpa using h)
  simpa [sumRange] using this

/-- A cell is no neighbour of its own, so it has at most eight like ones. -/
theorem likeNeighbours_le (g : Grid) (mc row col : Nat) : likeNeighbours g mc row col ≤ 8 := by
  have hrow : ∀ r, (unitOffsets.filter fun c => likeNeighbour g mc row col r c).length ≤ 3 := fun r =>
    List.length_filter_le _ _
  have hself : likeNeighbour g mc row col 0 0 = false := by
    unfold likeNeighbour
    split_ifs <;> simp_all
  have hmiddle : (unitOffsets.filter fun c => likeNeighbour g mc row col 0 c).length ≤ 2 := by
    have h0 : unitOffsets.filter (fun c => likeNeighbour g mc row col 0 c) =
        ([-1, 1] : List Int).filter (fun c => likeNeighbour g mc row col 0 c) := by
      simp [unitOffsets, List.filter_cons, hself]
    rw [h0]
    exact List.length_filter_le _ _
  have hsum : likeNeighbours g mc row col = (unitOffsets.filter fun c => likeNeighbour g mc row col (-1) c).length +
      ((unitOffsets.filter fun c => likeNeighbour g mc row col 0 c).length +
        (unitOffsets.filter fun c => likeNeighbour g mc row col 1 c).length) := rfl
  have := hrow (-1)
  have := hrow 1
  omega

theorem partA_le (g : Grid) (mc : Nat) : partA g mc ≤ mc * (mc * 6) :=
  sumRange_le fun row _ => sumRange_le fun col _ => by
    have := likeNeighbours_le g mc row col
    dsimp only
    split <;> omega

theorem partB_le (g : Grid) (mc : Nat) : partB g mc ≤ (mc - 1) * ((mc - 1) * 3) :=
  sumRange_le fun row _ => sumRange_le fun col _ => by
    dsimp only
    split <;> omega

theorem partC_le (g : Grid) (mc : Nat) : partC g mc ≤ mc * ((mc - 6) * 40) + mc * ((mc - 6) * 40) :=
  Nat.add_le_add
    (sumRange_le fun row _ => sumRange_le fun col _ => by split <;> omega)
    (sumRange_le fun col _ => sumRange_le fun row _ => by split <;> omega)

theorem darkCount_le (g : Grid) (mc : Nat) : darkCount g mc ≤ mc * (mc * 1) :=
  sumRange_le fun _ _ => sumRange_le fun _ _ => Bool.toNat_le _

/-- The bounds of rule R221, of a score. -/
def Score.within (sc : Score) (mc : Nat) : Prop := sc.n ≤ scoreBoundN mc ∧ sc.f ≤ 100 * mc ^ 2

theorem lostPoint_within (g : Grid) (mc : Nat) : (lostPoint g mc).within mc := by
  constructor
  · calc (lostPoint g mc).n ≤ mc * (mc * 6) + (mc - 1) * ((mc - 1) * 3) +
          (mc * ((mc - 6) * 40) + mc * ((mc - 6) * 40)) :=
        Nat.add_le_add (Nat.add_le_add (partA_le g mc) (partB_le g mc)) (partC_le g mc)
      _ = scoreBoundN mc := by unfold scoreBoundN; ring
  · have hdark : darkCount g mc ≤ mc ^ 2 := (darkCount_le g mc).trans_eq (by ring)
    change ((200 * darkCount g mc : Int) - 100 * mc ^ 2).natAbs ≤ 100 * mc ^ 2
    have hcast : (mc : Int) ^ 2 = ((mc ^ 2 : Nat) : Int) := by push_cast; rfl
    rw [hcast]
    omega

/-- A larger side has larger bounds. -/
theorem Score.within.mono {sc : Score} {mc mc' : Nat} (h : sc.within mc) (hle : mc ≤ mc') : sc.within mc' := by
  obtain ⟨hn, hf⟩ := h
  refine ⟨hn.trans ?_, hf.trans ?_⟩
  · unfold scoreBoundN
    gcongr
  · gcongr

/-- A score that the unit takes of a grid as its phase says. -/
theorem lostPoint_within_max {s : State} (hs : s.gridMatchesPhase) :
    (lostPoint s.grid s.modCnt).within Config.gridMax := by
  obtain ⟨hside, -⟩ := hs
  refine (lostPoint_within _ _).mono ?_
  rcases hside with h | h
  · rw [h]; exact Nat.zero_le _
  · exact (legalSide_bounds h).2.2

theorem scoresBounded_writeScore {s : State} {sc : Score} (h : sc.within Config.gridMax) :
    (s.writeScore sc).scoresBounded := by
  obtain ⟨hn, hf⟩ := h
  exact ⟨(Nat.mod_le _ _).trans hn, (Nat.mod_le _ _).trans hf⟩

/-! ## The invariant -/

/-- The grid as its phase says, and the scores within the bounds of the largest grid. -/
def State.gridAndScores (s : State) : Prop := s.gridMatchesPhase ∧ s.scoresBounded

theorem gridAndScores_completes {i : Instr} {s t : State} (hs : s.gridAndScores) (h : Completes s i t) :
    t.gridAndScores := by
  obtain ⟨hgrid, hscores⟩ := hs
  refine ⟨gridMatchesPhase_completes hgrid h, ?_⟩
  cases h with
  | score => exact scoresBounded_writeScore (lostPoint_within_max hgrid)
  | csrw hw => rw [csrWrite_hostPart hw]; exact hscores
  | _ => exact hscores

/-- `MAKE` writes the score of a trial, which is the score of a grid of the unit's. -/
theorem gridAndScores_bodyMake {s : State} (hs : s.gridAndScores) :
    EndsIn State.gridAndScores State.gridAndScores (bodyMake rom s) :=
  bodyMake_endsIn_of_parts (Q := fun best => best.score.within Config.gridMax)
    (fun _ _ _ _ hs h => gridAndScores_completes hs h)
    (fun _ _ hs => lostPoint_within_max hs.1)
    (makeStart_endsIn hs (fun _ _ hs h => gridAndScores_completes hs h) fun _ _ h => h)
    fun _ _ _ hs _ hbest h => ⟨(gridMatchesPhase_completes hs.1 h :), scoresBounded_writeScore hbest⟩

theorem gridAndScores_bodyOf (i : Instr) {s : State} (hs : s.gridAndScores) :
    EndsIn State.gridAndScores State.gridAndScores (bodyOf i s) := by
  cases hi : i.isMakeimpl with
  | true =>
    cases i <;> cases hi
    exact (bodyMakeimpl_endsIn_of_parts (fun _ _ _ _ hs h => gridAndScores_completes hs h) _ _ hs).mono
      (fun _ h => h) fun _ h => h.1
  | false =>
    by_cases hm : i = .make
    · subst hm
      exact gridAndScores_bodyMake hs
    · exact bodyOf_endsIn_of_completes hi hm hs fun _ h => gridAndScores_completes hs h

theorem scoresBounded_hostAccess {txn : HostTxn} {s : State} (hr : txn.isRead = false) (hs : s.scoresBounded) :
    (hostAccess txn s).scoresBounded := by
  rcases hostAccess_hostPart hr s with h | h <;> rw [h]
  · exact hs
  · exact ⟨Nat.zero_le _, Nat.zero_le _⟩

/-- Settles O20: a score is within the bounds of its grid's side, a side is at most 177, and `SCORE` and `MAKE` alone
write one. -/
theorem scoresStayBounded : Obligations.ScoresStayBounded := by
  unfold Obligations.ScoresStayBounded
  refine ⟨by decide, fun s t hgrid hscores h => ?_⟩
  exact (step_keeps (P := State.gridAndScores)
    (hport := fun _ _ _ _ h => h)
    (hclear := fun s _ => ⟨gridMatchesPhase_none rfl rfl rfl rfl rfl, Nat.zero_le _, Nat.zero_le _⟩)
    (hbody := fun i _ _ _ hs => gridAndScores_bodyOf i hs)
    (houtputs := fun i c s hs => by
      rcases outputsOf_cases i c s with h | ⟨-, h⟩ | ⟨-, h⟩ | ⟨-, h⟩ | ⟨-, h⟩ <;> rw [h] <;> exact hs)
    (hfault := fun _ _ _ _ hs => ⟨gridMatchesPhase_none rfl rfl rfl rfl rfl, hs.2⟩)
    (hhost := fun _ _ hr hs => ⟨gridMatchesPhase_hostAccess hr hs.1, scoresBounded_hostAccess hr hs.2⟩)
    ⟨hgrid, hscores⟩ h).2

end Sys2Proof.Machine
end

section
/-! SUPPORT. What a command may change (rules R31, R33, R43, R60): the state with everything erased that a command may
write is the same before and after it. The parts of a composite command write less than the command. -/

namespace Sys2Proof.Machine

/-- `CSRW`, with any operands. -/
def isCsrw : Instr → Bool
  | .csrw _ _ => true
  | _ => false

/-- `GRID.STRUCT`, with any operands. -/
def isGridStruct : Instr → Bool
  | .gridStruct _ _ => true
  | _ => false

/-- The state with the registers and spaces erased that a command may write, and with them the record of a fault, the
flags, the grid and its phase, and the epoch of the free values. -/
def State.beside (i : Instr) (s : State) : State := { s with
  x := match i.scalarDest with
    | some rd => s.x.set rd 0
    | none => s.x
  p := match i.polyDest with
    | some pd => s.p.set pd []
    | none => s.p
  seg := if i.writesSeg then [] else s.seg
  segLen := if i.writesSeg || isCsrw i then 0 else s.segLen
  txtLen := if isCsrw i then 0 else s.txtLen
  stgLen := if isCsrw i then 0 else s.stgLen
  level := if isCsrw i then 0 else s.level
  version := if isCsrw i || i == .make then 0 else s.version
  bb := if i.writesBb then .empty else s.bb
  cw := if i.writesCw then [] else s.cw
  blk := if i == .rsBlocks then [] else s.blk
  mask := if i.isMakeimpl || isGridStruct i || i == .make then 0 else s.mask
  scoreN := if i == .score || i == .make then 0 else s.scoreN
  scoreF := if i == .score || i == .make then 0 else s.scoreF
  grid := [], modCnt := 0, phase := .empty, fault := false, final := false, dcValid := false, testF := false
  cause := none, finfo := 0, fcmd := 0, freeIdx := 0 }

theorem writesBb_of_appends {i : Instr} (h : appendsBits i = true) : i.writesBb = true := by
  cases i with
  | bbPut | bbPutbit | segWrite | dataSeg | dataFin => rfl
  | _ => cases h

theorem beside_completes {i : Instr} {s t : State} (h : Completes s i t) : t.beside i = s.beside i := by
  cases h with
  | scalar hd => simp [State.beside, State.writeXWord, hd]
  | poly hd => simp [State.beside, State.writeP, hd]
  | append hi => simp [State.beside, State.withBb, writesBb_of_appends hi]
  | csrw hw => rcases csrWrite_written hw with ⟨-, rfl⟩ | ⟨-, rfl⟩ | ⟨-, rfl⟩ | ⟨-, rfl⟩ | ⟨-, rfl⟩ <;> rfl
  | _ => rfl

/-- The parts of `MAKEIMPL` write less than it. -/
theorem beside_makeimpl_of_part {i : Instr} (hi : isLayoutPart i = true) (test : Bool) (mask : BitVec 4) (s : State) :
    (s.beside i).beside (.makeimpl test mask) = s.beside (.makeimpl test mask) := by
  cases i with
  | bbClr | dataSeg | dataFin | rsEnc | gridInit | gridStruct | gridMap => rfl
  | _ => cases hi

/-- The parts of `MAKE` write less than it. -/
theorem beside_make_of_part {i : Instr} (hi : isLayoutPart i = true ∨ i = .segEnc ∨ i = .gridFin) (s : State) :
    (s.beside i).beside .make = s.beside .make := by
  rcases hi with hi | rfl | rfl
  · cases i with
    | bbClr | dataSeg | dataFin | rsEnc | gridInit | gridStruct | gridMap => rfl
    | _ => cases hi
  · rfl
  · rfl

theorem beside_bodyMakeimpl (test : Bool) (mask : BitVec 4) (s : State) :
    EndsIn (fun t => t.beside (.makeimpl test mask) = s.beside (.makeimpl test mask))
      (fun t => t.beside (.makeimpl test mask) = s.beside (.makeimpl test mask)) (bodyMakeimpl rom test mask s) :=
  (bodyMakeimpl_endsIn_of_parts (P := fun t => t.beside (.makeimpl test mask) = s.beside (.makeimpl test mask))
    (fun i u t hi hu h => by
      rw [← beside_makeimpl_of_part hi, beside_completes h, beside_makeimpl_of_part hi, hu]) test mask rfl).mono
    (fun _ h => h) fun _ h => h.1

theorem beside_bodyMake (s : State) :
    EndsIn (fun t => t.beside .make = s.beside .make) (fun t => t.beside .make = s.beside .make) (bodyMake rom s) := by
  have hpart : ∀ i u t, isLayoutPart i = true ∨ i = .segEnc ∨ i = .gridFin → u.beside .make = s.beside .make →
      Completes u i t → t.beside .make = s.beside .make := fun i u t hi hu h => by
    rw [← beside_make_of_part hi, beside_completes h, beside_make_of_part hi, hu]
  exact bodyMake_endsIn_of_parts (Q := fun _ => True) (P := fun t => t.beside .make = s.beside .make)
    (fun i u t hi hu h => hpart i u t (.inl hi) hu h) (fun _ _ _ => trivial)
    (makeStart_endsIn rfl (fun u t hu h => hpart .segEnc u t (.inr (.inl rfl)) hu h) fun _ _ h => h)
    fun u t _ hu _ _ h => hpart .gridFin u t (.inr (.inr rfl)) hu h

/-- The rule of a command, however it ends. -/
theorem beside_bodyOf (i : Instr) (s : State) :
    EndsIn (fun t => t.beside i = s.beside i) (fun t => t.beside i = s.beside i) (bodyOf i s) := by
  cases hi : i.isMakeimpl with
  | true => cases i <;> cases hi; exact beside_bodyMakeimpl _ _ s
  | false =>
    by_cases hm : i = .make
    · subst hm
      exact beside_bodyMake s
    · exact bodyOf_endsIn_of_completes (P := fun t => t.beside i = s.beside i) hi hm rfl fun _ h => beside_completes h

/-- A fault changes only what its command may write, and what `State.beside` erases for every command. -/
theorem beside_fault (i : Instr) (w : Word) (c : Cause) (info : Int) (s : State) :
    (faultEntry w c info (outputsOf i c s)).beside i = s.beside i := by
  change (outputsOf i c s).beside i = s.beside i
  rcases outputsOf_cases i c s with h | ⟨hbb, h⟩ | ⟨rfl, h⟩ | ⟨hi, h⟩ | ⟨rfl, h⟩ <;> rw [h]
  · simp [State.beside, State.freeBb, State.nextEpoch, hbb]
  · rfl
  · cases i <;> cases hi; rfl
  · rfl

theorem exec_beside {i : Instr} {s t : State} (hi : i ≠ .reset) (h : exec i s = .next t) :
    t.beside i = s.beside i := by
  rcases exec_cases h with ⟨hr, -⟩ | ⟨-, -, rfl⟩ | ⟨-, -, hb⟩ | ⟨-, -, e, hb, rfl⟩
  · exact absurd hr hi
  · rfl
  · exact (beside_bodyOf i s).ok_of hb
  · exact (beside_fault ..).trans ((beside_bodyOf i s).error_of hb)

/-- Only the commands that write the grid change it without a fault. -/
theorem grid_exec {i : Instr} {s t : State} (hi : i ≠ .reset) (hg : i.writesGrid = false) (hf : t.fault = s.fault)
    (h : exec i s = .next t) : t.grid = s.grid ∧ t.modCnt = s.modCnt := by
  rcases exec_cases h with ⟨hr, -⟩ | ⟨-, -, rfl⟩ | ⟨-, -, hb⟩ | ⟨-, hfault, e, -, rfl⟩
  · exact absurd hr hi
  · exact ⟨rfl, rfl⟩
  · have hm : i ≠ .make := by rintro rfl; cases hg
    have hm' : i.isMakeimpl = false := by
      cases i with
      | makeimpl => cases hg
      | _ => rfl
    cases bodyOf_completes hm' hm hb with
    | csrw hw => rw [csrWrite_hostPart hw]; exact ⟨rfl, rfl⟩
    | gridInit | gridStruct | gridMap => cases hg
    | _ => exact ⟨rfl, rfl⟩
  · rw [faultEntry_fault, hfault] at hf; cases hf

/-- Settles O22: the state beside what a command may write is the same before and after it. -/
theorem commandsWriteOnlyTheirOutputs : Obligations.CommandsWriteOnlyTheirOutputs := by
  unfold Obligations.CommandsWriteOnlyTheirOutputs
  intro i s t h
  by_cases hi : i = .reset
  · subst hi
    obtain rfl : s.clear = t := Host.Outcome.next.inj h
    simp
  have hb := exec_beside hi h
  refine ⟨fun r hr => ?_, fun k hk _ => ?_, ?_, fun _ hw => ?_, fun hseg => ?_, fun _ => ?_⟩
  · have hx := congrArg (fun u : State => u.x[r]) hb
    cases hd : i.scalarDest with
    | none => simpa [State.beside, hd] using hx
    | some rd =>
      have hne : rd.val ≠ r.val := fun e => hr (by rw [hd, Fin.ext e])
      simpa [State.beside, hd, hne] using hx
  · have hp := congrArg (fun u : State => u.p[k]) hb
    cases hd : i.polyDest with
    | none => simpa [State.beside, State.readP, hd] using hp
    | some pd =>
      have hne : pd.val ≠ k.val := fun e => hk (by rw [hd, Fin.ext e])
      simpa [State.beside, State.readP, hd, hne] using hp
  · exact ⟨(congrArg State.txt hb :), (congrArg State.stg hb :), (congrArg State.port hb :),
      (congrArg State.reply hb :)⟩
  · have hcsrw : isCsrw i = false := by
      cases i with
      | csrw csr ra => exact absurd rfl (hw csr ra)
      | _ => rfl
    exact ⟨by simpa [State.beside, hcsrw] using congrArg State.txtLen hb,
      by simpa [State.beside, hcsrw] using congrArg State.stgLen hb,
      by simpa [State.beside, hcsrw] using congrArg State.level hb,
      fun hm => by simpa [State.beside, hcsrw, hm] using congrArg State.version hb,
      fun hseg => by simpa [State.beside, hcsrw, hseg] using congrArg State.segLen hb⟩
  · simpa [State.beside, hseg] using congrArg State.seg hb
  · refine ⟨fun hne => ?_, fun hbb => ?_, fun hcw => ?_, fun hg hf => grid_exec hi hg hf h, fun hm hs hk => ?_,
      fun hs hm => ⟨?_, ?_⟩⟩
    · simpa [State.beside, hne] using congrArg State.blk hb
    · simpa [State.beside, hbb] using congrArg State.bb hb
    · simpa [State.beside, hcw] using congrArg State.cw hb
    · have hstruct : isGridStruct i = false := by
        cases i with
        | gridStruct test mask => exact absurd rfl (hs test mask)
        | _ => rfl
      simpa [State.beside, hm, hstruct, hk] using congrArg State.mask hb
    · simpa [State.beside, hs, hm] using congrArg State.scoreN hb
    · simpa [State.beside, hs, hm] using congrArg State.scoreF hb

end Sys2Proof.Machine
end

section
/-! SUPPORT. The writers of DCVALID among the commands (rule R55). -/

namespace Sys2Proof.Machine

/-- `MAKEIMPL` and `MAKE` complete with a valid stream (rules R270, R276, R281). -/
theorem dcValid_of_composite {i : Instr} {s t : State} (hi : i.isMakeimpl = true ∨ i = .make)
    (h : bodyOf i s = .ok t) : t.dcValid = true := by
  rcases hi with hi | rfl
  · cases i <;> cases hi
    exact ((bodyMakeimpl_endsIn_of_parts (P := fun _ => True) (fun _ _ _ _ _ _ => trivial) _ _ trivial).ok_of h).2
  · have hend : EndsIn (fun _ => True) (fun s => s.dcValid = true) (bodyMake rom s) :=
      bodyMake_endsIn_of_parts (P := fun _ => True) (Q := fun _ => True) (fun _ _ _ _ _ _ => trivial)
        (fun _ _ _ => trivial) (makeStart_endsIn trivial (fun _ _ _ _ => trivial) fun _ _ _ => trivial)
        fun _ _ _ _ hd _ h => by cases h with | gridFin => exact hd | _ => contradiction
    exact hend.ok_of h

/-- `CSRW` clears DCVALID where it writes VERSION, LEVEL or SEGLEN. -/
theorem dcValid_csrWrite {s t : State} {csr : BitVec 16} {w : Word} (h : s.csrWrite csr.toNat w = .written t) :
    t.dcValid = (s.dcValid && csr != 4 && csr != 5 && csr != 13) := by
  have hcsr : ∀ n : Nat, csr.toNat = n → csr = BitVec.ofNat 16 n := fun n hn => by
    rw [← hn, BitVec.ofNat_toNat, BitVec.setWidth_eq]
  rcases csrWrite_written h with ⟨hn, rfl⟩ | ⟨hn, rfl⟩ | ⟨hn, rfl⟩ | ⟨hn, rfl⟩ | ⟨hn, rfl⟩ <;>
    rw [hcsr _ hn] <;> cases s.dcValid <;> rfl

/-- Settles O23: of the commands that complete `RS.ENC` and those that end with `GRID.MAP` leave DCVALID 1, those that
write SEG, BB, VERSION, LEVEL or SEGLEN leave it 0. -/
theorem streamFlagHasItsListedWriters : Obligations.StreamFlagHasItsListedWriters := by
  unfold Obligations.StreamFlagHasItsListedWriters
  intro i s t hf h
  rcases exec_cases h with ⟨rfl, rfl⟩ | ⟨-, hfault, -⟩ | ⟨hr, -, hb⟩ | ⟨-, -, e, -, rfl⟩
  · exact ⟨fun _ => rfl, fun _ => rfl⟩
  · rw [hf] at hfault; cases hfault
  · refine ⟨fun ht => ?_, fun _ => ?_⟩
    · rw [(sameRecord_of_ok hb).1, hf] at ht; cases ht
    · by_cases hi : i.isMakeimpl = true ∨ i = .make
      · have hd := dcValid_of_composite hi hb
        rcases hi with hi | rfl
        · cases i <;> cases hi; exact hd
        · exact hd
      · obtain ⟨hi, hm⟩ := not_or.mp hi
        cases bodyOf_completes (Bool.not_eq_true _ ▸ hi) hm hb with
        | scalar hd =>
          cases i with
          | set | csrr | gfLog | gfExp | polyLen | polyGet | bbGet | segLen | utf8Len | verSel | bchFmt | bchVer
          | bchDigit | maskTst | qCount | qDark => rfl
          | _ => cases hd
        | poly hd =>
          cases i with
          | polyNew | polyMul | polyMod | rsGen => rfl
          | _ => cases hd
        | append ha =>
          cases i with
          | bbPut | bbPutbit | segWrite | dataSeg | dataFin => rfl
          | _ => cases ha
        | csrw hw => exact dcValid_csrWrite hw
        | reset => exact absurd rfl hr
        | _ => rfl
  · exact ⟨fun _ => rfl, nofun⟩

end Sys2Proof.Machine
end

section
/-! SUPPORT. The block table and its lookup (rules R24, R180, R181, R187(a)): what the printed cells are, checked over
all of them, and that the lookup answers the cell's groups. -/

namespace Sys2Proof.Machine

open Sys2Proof.Reference

/-- The groups of a version and a level, as rule R24 prints them. -/
def tableCell (version level : Nat) : List Config.BlockGroup := (rsBlockRows.getD (version - 1) []).getD level []

/-- The blocks of a group, and of groups in order (rule R180). -/
def blocksOfGroups (cell : List Config.BlockGroup) : List RsBlock :=
  cell.flatMap fun g => List.replicate g.blockCount ⟨g.totalCodewords, g.dataCodewords⟩

theorem mem_blocksOfGroups {cell : List Config.BlockGroup} {b : RsBlock} (h : b ∈ blocksOfGroups cell) :
    ∃ g ∈ cell, b = ⟨g.totalCodewords, g.dataCodewords⟩ := by
  obtain ⟨g, hg, hb⟩ := List.mem_flatMap.mp h
  exact ⟨g, hg, (List.mem_replicate.mp hb).2⟩

/-- What rules R24 and R187(a) say of a cell of the table. -/
def CellValid (version level : Nat) : Prop :=
  let cell := tableCell version level
  let blocks := blocksOfGroups cell
  rom.rsBlock.getD (tableIndex version level).toNat [] = cell ∧ cell ≠ [] ∧
    (∀ g ∈ cell, 0 < g.dataCodewords ∧ g.dataCodewords < g.totalCodewords) ∧
    (∀ g ∈ cell, ∀ g' ∈ cell, g.totalCodewords - g.dataCodewords = g'.totalCodewords - g'.dataCodewords) ∧
    0 < blocks.length ∧ blocks.length ≤ 81 ∧
    some (blocks.map (·.totalCount)).sum = codewordTotals[version - 1]?

theorem cellValid {version level : Nat} (hv : 1 ≤ version ∧ version ≤ 40) (hl : level < 4) :
    CellValid version level := by
  have h : ∀ v ∈ List.range' 1 40, ∀ l < 4, CellValid v l := by
    unfold CellValid
    decide +kernel
  exact h version (List.mem_range'_1.mpr (by omega)) level hl

/-- A cell of valid groups is looked up without a fault (rule R180). -/
theorem cellBlocks_ok {idx : Int} {cell : List Config.BlockGroup}
    (h : ∀ g ∈ cell, 0 < g.dataCodewords ∧ g.dataCodewords < g.totalCodewords) :
    cellBlocks idx cell = .ok (blocksOfGroups cell) := by
  induction cell with
  | nil => rfl
  | cons g gs ih =>
    obtain ⟨⟨hpos, hlt⟩, hgs⟩ := List.forall_mem_cons.mp h
    have hg : groupBlocks idx g = .ok (List.replicate g.blockCount ⟨g.totalCodewords, g.dataCodewords⟩) := by
      unfold groupBlocks
      rcases Nat.eq_zero_or_pos g.blockCount with h0 | h0
      · simp [h0]
      · rw [if_neg (by omega), if_neg (by omega), if_neg (by omega)]
    rw [cellBlocks, hg, ih hgs]
    rfl

/-- The lookup of a version outside the tables. -/
theorem getRSBlocks_outside {version : Nat} (level : Nat) (h : ¬ (1 ≤ version ∧ version ≤ 40)) :
    getRSBlocks rom version level = .error ⟨.tableEntryMissing, tableIndex version level⟩ := by
  have hv : versionInRange version = false := by simpa [versionInRange] using h
  simp [getRSBlocks, hv]

/-- The lookup of a version of the tables. -/
theorem getRSBlocks_inside {version level : Nat} (hv : 1 ≤ version ∧ version ≤ 40) (hl : level < 4) :
    getRSBlocks rom version level = .ok (blocksOfGroups (tableCell version level)) := by
  obtain ⟨hcell, hne, hgroups, -⟩ := cellValid hv hl
  have hin : versionInRange version = true := by simpa [versionInRange] using hv
  rw [← cellBlocks_ok (idx := tableIndex version level) hgroups]
  unfold getRSBlocks
  dsimp only
  rw [hin, hcell]
  generalize tableCell version level = cell at hne
  cases cell with
  | nil => exact absurd rfl hne
  | cons => rfl

/-- Settles O44: the lookup answers the groups of the printed cell, written out, and the cells are as rule R187(a) has
them. -/
theorem rsBlocksListsTheBlocks : Obligations.RsBlocksListsTheBlocks := by
  unfold Obligations.RsBlocksListsTheBlocks
  refine ⟨by decide, fun s hf => ⟨fun hv => ?_, fun hv => ?_⟩⟩
  · refine exec_of_error (i := .rsBlocks) (e := ⟨.tableEntryMissing, missingIndex s, s⟩) nofun hf ?_
    simp only [bodyOf, bodyRsBlocks, State.blocks, getRSBlocks_outside _ hv]
    rfl
  · have hl : s.level.toNat < 4 := s.level.isLt
    obtain ⟨-, -, hgroups, hcheck, hpos, hmax, htotal⟩ := cellValid hv hl
    refine ⟨blocksOfGroups (tableCell s.version.toNat s.level.toNat), ?_, rfl, hpos, hmax, fun b hb => ?_,
      fun b hb c hc => ?_, htotal⟩
    · refine exec_of_ok (i := .rsBlocks) nofun hf ?_
      simp only [bodyOf, bodyRsBlocks, State.blocks, getRSBlocks_inside hv hl, liftRaise_ok, bind, Except.bind]
      exact if_neg (Nat.not_lt.mpr hmax)
    · obtain ⟨g, hg, rfl⟩ := mem_blocksOfGroups hb
      exact hgroups g hg
    · obtain ⟨g, hg, rfl⟩ := mem_blocksOfGroups hb
      obtain ⟨g', hg', rfl⟩ := mem_blocksOfGroups hc
      exact hcheck g hg g' hg'

end Sys2Proof.Machine
end

section
/-! SUPPORT. The end of `GRID.MAP` (rules R66, R271 to R273): the bits of the stream and the free cells before a cell,
as the reference description has them. -/

namespace Sys2Proof.Machine

open Sys2Proof.Reference

/-- The bits of a byte, by number and by value. -/
theorem msbBits_byte (b : Byte) (k : Nat) (hk : k < 8) : (msbBits b.toNat 8)[k]? = some (b.getLsbD (7 - k)) := by
  rw [← valueBits_eq_msbBits, valueBits, List.getElem?_map, List.getElem?_range hk]
  simp [BitVec.getLsbD, show 8 - k - 1 = 7 - k by omega]

/-- The stream's bits as the scan takes them and as the reference description has them (rule R66). -/
theorem streamBit_eq (cw : List Byte) (n : Nat) : streamBit cw n = codewordBit cw n := by
  induction cw generalizing n with
  | nil => simp [streamBit, codewordBit, byteBits]
  | cons b cw ih =>
    rw [streamBit, byteBits_cons]
    by_cases hn : n < 8
    · rw [List.getD_append _ _ _ _ (by simpa using hn), List.getD_eq_getElem?_getD, msbBits_byte b n hn]
      simp [codewordBit, Nat.div_eq_of_lt hn, Nat.mod_eq_of_lt hn]
    · obtain ⟨m, rfl⟩ := Nat.exists_eq_add_of_le' (Nat.not_lt.mp hn)
      rw [List.getD_append_right _ _ _ _ (by simp), msbBits_length, Nat.add_sub_cancel]
      refine (ih m).trans ?_
      simp [codewordBit]

/-- The cells outside column 6, row by row, are the cells of the scan. -/
theorem scanOrder_perm {mc : Nat} (hodd : mc % 2 = 1) (h7 : 7 ≤ mc) :
    (scanOrder mc).Perm ((positions mc mc).filter fun p => p.2 != 6) := by
  have hscan : (scanOrder mc).Nodup := (scanOrder_sorted hodd h7).imp fun h e => by
    rw [e] at h
    exact lt_irrefl _ h
  have hall : (positions mc mc).Nodup := List.nodup_range.product List.nodup_range
  refine (List.perm_ext_iff_of_nodup hscan (hall.filter _)).mpr fun p => ?_
  have hp : p ∈ positions mc mc ↔ p.1 < mc ∧ p.2 < mc := by
    obtain ⟨r, c⟩ := p
    simp [positions]
  rw [mem_scanOrder hodd h7, List.mem_filter, hp, bne_iff_ne, and_assoc]

/-- The free cells the scan visits before a cell, counted row by row. -/
theorem freeBefore_scanOrder {mc : Nat} (hodd : mc % 2 = 1) (h7 : 7 ≤ mc) (g : Grid) (row col : Nat) :
    freeBefore g mc (scanOrder mc) (row, col) = freeCellsBefore g mc row col := by
  rw [freeBefore, ((scanOrder_perm hodd h7).filter _).length_eq, List.filter_filter, positions, List.filter_flatMap,
    List.length_flatMap, freeCellsBefore]
  refine congrArg List.sum (List.map_congr_left fun r _ => ?_)
  rw [List.filter_map, List.length_map]
  refine congrArg List.length (List.filter_congr fun c _ => ?_)
  simp only [Function.comp_apply, cellRank]
  rw [Bool.and_comm, Bool.and_assoc]

theorem phase_code_eq (p : Phase) : p.code = phaseOrder.idxOf p := by cases p <;> decide

/-- Settles O53: the checks of `GRID.MAP` in their order, and the scan's cells by their rank. -/
theorem gridMapPlacesTheStream : Obligations.GridMapPlacesTheStream := by
  unfold Obligations.GridMapPlacesTheStream
  refine fun mask => ⟨by revert mask; decide, fun s hf hs => ⟨fun hm => ?_, fun hm hwrong => ?_, fun hp hv hm hd => ?_⟩⟩
  · refine exec_of_error (i := .gridMap mask) (e := ⟨.maskPattern, mask.toNat, s⟩) nofun hf ?_
    rcases bodyGridMap_cases mask s with ⟨-, hb⟩ | ⟨hlt, -, -⟩ | ⟨heq, -⟩
    · exact hb
    · omega
    · omega
  · rw [← phase_code_eq]
    refine exec_of_error (i := .gridMap mask) (e := ⟨.sequenceError, s.phase.code, s⟩) nofun hf ?_
    rcases bodyGridMap_cases mask s with ⟨hge, -⟩ | ⟨-, -, hb⟩ | ⟨h1, h2, h3, h4, -⟩
    · omega
    · exact hb
    · rcases hwrong with h | h | h | h
      · exact absurd h2 h
      · exact absurd h3 h
      · exact absurd h1 h
      · rw [h4] at h; cases h
  · obtain ⟨hside, hsquare, hnonzero, -, hcolumn, -⟩ := hs
    obtain ⟨hodd, hlarge, -⟩ := legalSide_bounds (hside.resolve_left (hnonzero (by rw [hp]; nofun)))
    refine ⟨mapData s.modCnt s.cw s.mask s.grid, exec_of_ok (i := .gridMap mask) nofun hf ?_, fun row hr col hc => ?_⟩
    · rcases bodyGridMap_cases mask s with ⟨hge, -⟩ | ⟨-, h, -⟩ | ⟨-, -, -, -, hb⟩
      · omega
      · rcases h with h | h | h | h
        · exact absurd hp h
        · exact absurd hv h
        · exact absurd hm h
        · rw [hd] at h; cases h
      · exact hb
    · rw [cell_mapData hsquare hodd (by omega) (hcolumn hp) hr hc, freeBefore_scanOrder hodd (by omega), streamBit_eq]

end Sys2Proof.Machine
end

section
/-! SUPPORT. What a reset of either kind leaves (rules R57, R350, R351). -/

namespace Sys2Proof.Machine

theorem clear_atReset (s : State) : s.clear.atReset := by
  simp [State.atReset, State.readP, BitBuffer.empty]

/-- The state after reset is a cleared one. -/
theorem reset_eq_clear : State.reset = State.reset.clear := rfl

/-- Settles O9: the reset input is `RESET` with the free values put in before it. -/
theorem hardwareResetIsResetOfArbitraryElements : Obligations.HardwareResetIsResetOfArbitraryElements := by
  unfold Obligations.HardwareResetIsResetOfArbitraryElements
  refine ⟨fun s rest hp => ?_, by rw [reset_eq_clear]; exact clear_atReset _, rfl⟩
  -- the state at the instant the cleared registers are written
  obtain ⟨u, hu⟩ : ∃ u, u = (s.taken .hardwareReset rest).freeXStgTxt.freeSegElements.nextEpoch := ⟨_, rfl⟩
  have hother : ({ s with
      port := rest, reply := .none, x := u.x, stg := u.stg, txt := u.txt, seg := u.seg
      freeIdx := u.freeIdx } : State) = u := by
    rw [hu, taken_other _ _ _ rfl]
    simp only [State.freeXStgTxt, State.freeSegElements, State.nextEpoch]
  refine ⟨u.x, u.stg, u.txt, u.seg, u.freeIdx, u.clear, ?_, clear_atReset u, ?_⟩
  · simp only [step, hp, perform, State.hardwareReset, hu]
  · rw [hother]
    exact exec_reset_eq u

/-- Settles O12: every invariant holds of a cleared unit with nothing in its element memories. -/
theorem resetStateMeetsTheInvariants : Obligations.ResetStateMeetsTheInvariants := by
  unfold Obligations.ResetStateMeetsTheInvariants
  exact ⟨(withinCapacity_clear State.reset).1, (withinCapacity_clear State.reset).2, by decide,
    polysConstructed_clear State.reset, BitBuffer.wellFormed_empty, gridMatchesPhase_none rfl rfl rfl rfl rfl,
    faultRecorded_of_unfaulted ⟨rfl, rfl, rfl, rfl⟩, streamValid_of_clear rfl, Nat.zero_le _, Nat.zero_le _⟩

end Sys2Proof.Machine
end

section
/-! SUPPORT. What a step does with the transaction it takes (rules R61, R73, R92): a write is what the host access does,
an issue is the word's command, and an empty port is a wait. -/

namespace Sys2Proof.Machine

theorem step_idle {s : State} (hp : s.port = []) : step s = .next s := by simp only [step, hp]

theorem step_issue {s : State} {w : Word} {rest : List HostTxn} {i : Instr} (hp : s.port = .issue w :: rest)
    (hd : decode w = .ok i) : step s = exec i (s.taken (.issue w) rest) := by
  simp only [step, hp, perform, issueWord, hd]

theorem step_hostAccess {s : State} {txn : HostTxn} {rest : List HostTxn} (hp : s.port = txn :: rest)
    (hi : ∀ w, txn ≠ .issue w) : step s = .next (hostAccess txn (s.taken txn rest)) := by
  simp only [step, hp]
  cases txn with
  | issue w => exact absurd rfl (hi w)
  | _ => rfl

/-- Settles O5: a step takes the oldest transaction, and the word it issues runs as the command it decodes to. -/
theorem stepRunsTheDecodedCommand : Obligations.StepRunsTheDecodedCommand := by
  unfold Obligations.StepRunsTheDecodedCommand
  refine ⟨fun s w rest i hp hd => ?_, fun s hp => step_idle hp⟩
  rw [step_issue hp hd, taken_other s _ rest rfl]

end Sys2Proof.Machine
end

section
/-! SUPPORT. The element memories in canonical form and inside their capacities (rules R60, R69): a write keeps both
because its index is checked, `SEG.ENC` because its length is, and free contents are made canonical. -/

namespace Sys2Proof.Machine

/-- A predicate is kept by an access that keeps it when its index is inside the capacity. -/
theorem within_keeps {P : State → Prop} {s access : State} {capacity index : Nat} (hs : P s)
    (haccess : index < capacity → P access) : P (s.within capacity index access) := by
  unfold State.within
  split
  next h => exact haccess h
  next => exact hs

/-- One memory in canonical form and inside its capacity. -/
abbrev Memory.canonical {width : Nat} (m : Memory width) (capacity : Nat) : Prop :=
  m.wf = true ∧ m.below capacity = true

section
variable {width : Nat} {m : Memory width} {capacity : Nat}

theorem Memory.canonical_write {i : Nat} {v : BitVec width} (hm : m.canonical capacity) (hi : i < capacity) :
    (m.write i v).canonical capacity := ⟨Memory.write_wf hm.1, Memory.write_below hm.2 hi⟩

theorem Memory.canonical_writeSeq {vs : List (BitVec width)} (hm : m.canonical capacity)
    (hlen : vs.length ≤ capacity) : (m.writeSeq 0 vs).canonical capacity :=
  ⟨Memory.writeSeq_wf hm.1, Memory.writeSeq_below hm.2 (by omega)⟩

theorem Memory.canonical_ofElements (capacity : Nat) (f : Nat → BitVec width) :
    (Memory.ofElements capacity f).canonical capacity :=
  have ⟨hwf, hbelow, _⟩ := Memory.ofElements_spec capacity f
  ⟨hwf, hbelow⟩

end

theorem memoriesCanonical_of_csrWrite {s t : State} {n : Nat} {w : Word} (hs : s.memoriesCanonical)
    (h : s.csrWrite n w = .written t) : t.memoriesCanonical := by
  rcases csrWrite_written h with ⟨-, rfl⟩ | ⟨-, rfl⟩ | ⟨-, rfl⟩ | ⟨-, rfl⟩ | ⟨-, rfl⟩ <;> exact hs

/-- `SEG.ENC` alone writes an element memory. -/
theorem memoriesCanonical_completes {i : Instr} {s t : State} (hs : s.memoriesCanonical) (h : Completes s i t) :
    t.memoriesCanonical := by
  cases h with
  | segEnc hlen =>
    obtain ⟨hstg, htxt, hseg⟩ := hs
    exact ⟨hstg, htxt, Memory.canonical_writeSeq hseg hlen⟩
  | csrw hw => exact memoriesCanonical_of_csrWrite hs hw
  | _ => exact hs

/-- The fault of `MAKE` alone leaves free elements of SEG. -/
theorem memoriesCanonical_outputsOf (i : Instr) (c : Cause) {s : State} (hs : s.memoriesCanonical) :
    (outputsOf i c s).memoriesCanonical := by
  rcases outputsOf_cases i c s with h | ⟨-, h⟩ | ⟨-, h⟩ | ⟨-, h⟩ | ⟨-, h⟩ <;> rw [h]
  case inr.inr.inr.inr =>
    obtain ⟨hstg, htxt, -⟩ := hs
    exact ⟨hstg, htxt, Memory.canonical_ofElements _ _⟩
  all_goals exact hs

theorem memoriesCanonical_hardwareReset (s : State) : s.hardwareReset.memoriesCanonical :=
  ⟨Memory.canonical_ofElements _ _, Memory.canonical_ofElements _ _, Memory.canonical_ofElements _ _⟩

theorem memoriesCanonical_hostAccess {txn : HostTxn} {s : State} (hr : txn.isRead = false)
    (hs : s.memoriesCanonical) : (hostAccess txn s).memoriesCanonical := by
  obtain ⟨hstg, htxt, hseg⟩ := id hs
  cases txn with
  | read => cases hr
  | issue | writeReadOnly => exact hs
  | writeX index v => exact within_keeps hs fun _ => hs
  | writeCsr index v =>
    simp only [hostAccess, State.hostWriteCsr]
    split
    next hw => exact memoriesCanonical_of_csrWrite hs hw
    next => exact hs
    next => exact hs
  | writeStg index v => exact within_keeps hs fun hi => ⟨Memory.canonical_write hstg hi, htxt, hseg⟩
  | writeTxt index v => exact within_keeps hs fun hi => ⟨hstg, Memory.canonical_write htxt hi, hseg⟩
  | writeSeg index v => exact within_keeps hs fun hi => ⟨hstg, htxt, Memory.canonical_write hseg hi⟩
  | hardwareReset => exact memoriesCanonical_hardwareReset s

/-- Settles O14: every write of an element is checked against its capacity and keeps the canonical form. -/
theorem memoriesStayCanonical : Obligations.MemoriesStayCanonical := by
  unfold Obligations.MemoriesStayCanonical
  intro s t hs h
  have hbody (i : Instr) (s : State) (hs : s.memoriesCanonical) :=
    bodyOf_endsIn (P := State.memoriesCanonical)
      (fun _ _ hi hm hs => bodyOf_endsIn_of_completes hi hm hs fun _ h => memoriesCanonical_completes hs h)
      (hclear := fun _ h => h) (hversion := fun _ _ h => h) (hbest := fun _ _ _ h => h) i hs
  exact step_keeps (P := State.memoriesCanonical)
    (hport := fun _ _ _ _ h => h)
    (hclear := fun _ h => h)
    (hbody := fun i s _ _ hs => hbody i s hs)
    (houtputs := fun i c _ hs => memoriesCanonical_outputsOf i c hs)
    (hfault := fun _ _ _ _ h => h)
    (hhost := fun _ _ hr hs => memoriesCanonical_hostAccess hr hs)
    hs h

end Sys2Proof.Machine
end

section
/-! SUPPORT. What a host read answers (rules R46, R60, R62, R69, R71, R359): the numbered control register, the stored
element or a free one behind the value, and the same however many reads come before it. -/

namespace Sys2Proof.Machine

open Sys2Proof.Reference

/-! ## The control registers -/

/-- STATUS, bit by bit, is the sum of its flags (rule R46). -/
theorem statusWord_eq_statusBits (s : State) : s.statusWord = statusBits s := by
  simp only [State.statusWord, statusBits, countWord, Bool.toNat, Bool.cond_eq_ite, mul_ite, mul_one, mul_zero]

theorem causeCode_eq_causeNumber (s : State) : s.causeCode = causeNumber s := by
  unfold State.causeCode causeNumber
  cases s.cause with
  | none => rfl
  | some c => cases c <;> rfl

/-- The control registers 0 to 16 hold the values of the list (rule R46). -/
theorem csrRead_inside (s : State) {n : Nat} (h : n < 17) : s.csrRead n = some ((csrValues s).getD n 0) := by
  rw [csrValues, ← statusWord_eq_statusBits, ← causeCode_eq_causeNumber, ← phase_code_eq, BitVec.ofNat_toNat,
    BitVec.ofNat_toNat]
  interval_cases n <;> rfl

/-! ## The answer by kind of space -/

/-- A read of one element answers it as a 32-bit number. -/
theorem readElement_reply {width : Nat} (s : State) {capacity index : Nat} (stored : Option (BitVec width))
    (free : Nat → Nat → BitVec width) (h : index < capacity) :
    ∃ b : BitVec width, (s.readElement capacity index stored free).reply = .element (BitVec.ofNat 32 b.toNat) ∧
      ∀ a, stored = some a → b = a := by
  obtain ⟨b, hb, hstored⟩ := readElement_eq s stored free h
  exact ⟨b, by rw [hb, State.answer_reply, BitVec.ofNat_toNat], hstored⟩

/-- A read of an element memory answers the stored element below the length register. -/
theorem readElement_used_reply {width : Nat} (s : State) {capacity index length : Nat} (m : Memory width)
    (free : Nat → Nat → BitVec width) (h : index < capacity) :
    ∃ b : BitVec width,
      (s.readElement capacity index (m.used? length index) free).reply = .element (BitVec.ofNat 32 b.toNat) ∧
        (index < length → b = m.read index) := by
  obtain ⟨b, hb, hstored⟩ := readElement_reply s (m.used? length index) free h
  exact ⟨b, hb, fun hl => hstored _ (used?_inside m hl)⟩

theorem readReply_x (s : State) {k : Nat} (h : k < 16) : readReply s .x k = .element s.x[k] := by
  have hk : (Fin.ofNat 16 k).val = k := Nat.mod_eq_of_lt h
  simp only [readReply, State.hostRead, within_inside _ _ h, State.answer_reply, Fin.getElem_fin, hk]

theorem readReply_csr (s : State) {k : Nat} (h : k < 17) : readReply s .csr k = .element ((csrValues s).getD k 0) := by
  simp only [readReply, State.hostRead, csrRead_inside _ h, State.answer_reply]
  rfl

theorem readReply_blk (s : State) {k : Nat} (h : k < 81) :
    ∃ b : RsBlock, readReply s .blk k = .block b ∧ ∀ a, s.blk[k]? = some a → b = a := by
  simp only [readReply, State.hostRead, State.readBlk, within_inside _ _ h, State.answer_reply]
  exact ⟨_, rfl, fun a ha => by rw [ha]; rfl⟩

/-- Settles O25: a write of an element memory is found by a read of it, and a host read answers by the kind of its
space. -/
theorem hostReadsFindWhatWasWritten : Obligations.HostReadsFindWhatWasWritten := by
  unfold Obligations.HostReadsFindWhatWasWritten
  refine ⟨fun s hs j k => ?_,
    fun s rest sp k hp => ⟨readReply s sp k, step_read hp, readReply_outside s sp, fun h => ?_⟩⟩
  · obtain ⟨⟨hstg, -⟩, ⟨htxt, -⟩, ⟨hseg, -⟩⟩ := hs
    exact ⟨fun _ => Memory.read_write hstg, fun _ => Memory.read_write htxt, fun _ => Memory.read_write hseg⟩
  · cases sp with
    | x => exact fun hk => readReply_x s hk
    | csr => exact readReply_csr s h
    | p i => exact readElement_reply _ _ _ h
    | stg => exact readElement_used_reply _ s.stg _ h
    | txt => exact readElement_used_reply _ s.txt _ h
    | seg => exact readElement_used_reply _ s.seg _ h
    | bb => exact readElement_reply _ _ _ h
    | blk => exact readReply_blk s h
    | cw => exact readElement_reply _ _ _ h
    | grid => exact absurd h (Nat.not_lt_zero k)
    | rom => exact absurd h (Nat.not_lt_zero k)

/-! ## Reads before a read -/

/-- Reads change the port and the answer alone, so the last of them answers as it would alone. -/
theorem runSteps_reads (reads : List (Space × Nat)) {s : State} {sp : Space} {k : Nat} {rest : List HostTxn}
    (hp : s.port = readsOf reads ++ .read sp k :: rest) :
    runSteps (reads.length + 1) s = .next { s with port := rest, reply := readReply s sp k } := by
  induction reads generalizing s with
  | nil => simp only [List.length_nil, runSteps, step_read hp]
  | cons r reads ih =>
    rw [List.length_cons, runSteps, step_read hp]
    exact ih rfl

/-- Settles O60: the answer depends on neither the port nor an earlier answer, and a read changes nothing else. -/
theorem hostReadsAreIdempotent : Obligations.HostReadsAreIdempotent := by
  unfold Obligations.HostReadsAreIdempotent
  intro s reads sp k rest hp
  exact ⟨readReply s sp k, step_read rfl, runSteps_reads reads hp⟩

end Sys2Proof.Machine
end

section
/-! SUPPORT. What a host write does (rules R31, R35 to R37, R53, R60, R62, R69): it stores inside the contract and is
refused outside it. -/

namespace Sys2Proof.Machine

theorem hostWriteX_eq (s : State) (index : Nat) (v : Word) :
    s.hostWriteX index v = if h : index < 16 then { s with x := s.x.set index v } else s := by
  unfold State.hostWriteX State.within
  by_cases h : index < 16
  · have hindex : (Fin.ofNat 16 index).val = index := Nat.mod_eq_of_lt h
    simp only [h, if_true, dif_pos, State.writeXWord, hindex]
  · rw [if_neg h, dif_neg h]

/-- A length register stores a value up to the capacity of its buffer, and a larger one is refused (rules R53, R69). -/
theorem hostWriteCsr_length {s : State} {index capacity : Nat} {v : Word} {store : Nat → State}
    (hw : s.csrWrite index v = lengthWrite capacity v.toInt store) (hc : capacity < 2 ^ 31) :
    s.hostWriteCsr index v = if v.toNat ≤ capacity then store v.toNat else s := by
  rw [State.hostWriteCsr, hw, lengthWrite_eq hc]
  by_cases hv : v.toNat ≤ capacity
  · simp only [if_pos hv]
  · simp only [if_neg hv]

/-- A control register takes a write where it is writable and the value is in its range, and no other write has an
effect (rules R53, R69, R304). -/
theorem hostWriteCsr_eq (s : State) (index : Nat) (v : Word) : s.hostWriteCsr index v =
    if index = 4 then { s with version := BitVec.ofNat 8 v.toNat, dcValid := false }
    else if index = 5 then { s with level := BitVec.ofNat 2 v.toNat, dcValid := false }
    else if index = 12 ∧ v.toNat ≤ 4096 then { s with txtLen := v.toNat }
    else if index = 13 ∧ v.toNat ≤ 12291 then { s with segLen := v.toNat, dcValid := false }
    else if index = 15 ∧ v.toNat ≤ 256 then { s with stgLen := v.toNat }
    else s := by
  obtain rfl | h4 := eq_or_ne index 4
  · rfl
  obtain rfl | h5 := eq_or_ne index 5
  · rfl
  obtain rfl | h12 := eq_or_ne index 12
  · have hw : s.csrWrite 12 v = lengthWrite Config.txtMax v.toInt fun n => { s with txtLen := n } := rfl
    simpa using hostWriteCsr_length hw (by decide)
  obtain rfl | h13 := eq_or_ne index 13
  · have hw : s.csrWrite 13 v = lengthWrite Config.segMax v.toInt
        fun n => { s with segLen := n, dcValid := false } := rfl
    simpa using hostWriteCsr_length hw (by decide)
  obtain rfl | h15 := eq_or_ne index 15
  · have hw : s.csrWrite 15 v = lengthWrite Config.polyMax v.toInt fun n => { s with stgLen := n } := rfl
    simpa using hostWriteCsr_length hw (by decide)
  have hw : s.csrWrite index v = .notWritable := by simp [State.csrWrite, *]
  simp only [State.hostWriteCsr, hw, h4, h5, h12, h13, h15, false_and, if_false]

/-- Settles O24: each access is its entry of the port taken, then the read, or the one register or element stored. -/
theorem hostAccessesHaveTheirListedEffects : Obligations.HostAccessesHaveTheirListedEffects := by
  unfold Obligations.HostAccessesHaveTheirListedEffects
  intro s rest u
  have hwrite {txn : HostTxn} (hp : s.port = txn :: rest) (hr : txn.isRead = false) (hi : ∀ w, txn ≠ .issue w) :
      step s = .next (hostAccess txn u) := by
    rw [step_hostAccess hp hi, taken_other s txn rest hr]
  refine ⟨fun sp index hp => ⟨readReply s sp index, step_read hp, readReply_outside s sp⟩, fun index v hp => ?_,
    fun index v hp => hwrite hp rfl nofun, fun index v hp => hwrite hp rfl nofun,
    fun index v hp => hwrite hp rfl nofun, fun index v hp => ?_, fun sp index v hp => hwrite hp rfl nofun⟩
  · rw [hwrite hp rfl nofun, hostAccess, hostWriteX_eq]
  · rw [hwrite hp rfl nofun, hostAccess, hostWriteCsr_eq]

end Sys2Proof.Machine
end

section
/-! SUPPORT. The opcode map (rules R80 to R86, R328): a word is its fields, what the must-be-zero bits of a format leave
of it, what the decoder does with a word whose operation code has a row and with one whose code has none, and the
statements on the encoding. -/

namespace Sys2Proof

open Sys2Proof.Reference Sys2Proof.Machine

/-! ## A word is its fields (rules R81, R83, R84) -/

@[simp] theorem packFields_fields (w : Word) :
    packFields (opField w) (raField w) (rbField w) (rcField w) (rdField w) (imm8Field w) = w := by
  refine BitVec.eq_of_getLsbD_eq fun i hi => ?_
  rw [packFields_getLsbD _ _ _ _ _ _ _ hi]
  simp only [opField, raField, rbField, rcField, rdField, imm8Field, BitVec.getLsbD_extractLsb']
  interval_cases i <;> simp

theorem eq_packFields_iff {w : Word} {op : BitVec 8} {ra rb rc rd : BitVec 4} {imm8 : BitVec 8} :
    w = packFields op ra rb rc rd imm8 ↔
      opField w = op ∧ raField w = ra ∧ rbField w = rb ∧ rcField w = rc ∧ rdField w = rd ∧ imm8Field w = imm8 := by
  constructor
  · rintro rfl
    simp
  · rintro ⟨rfl, rfl, rfl, rfl, rfl, rfl⟩
    exact (packFields_fields w).symm

/-- The 16-bit operand of format I is the last three fields. -/
theorem packImm16_imm16Field (op : BitVec 8) (ra : BitVec 4) (w : Word) :
    packImm16 op ra (imm16Field w) = packFields op ra 0 (rcField w) (rdField w) (imm8Field w) := by
  refine BitVec.eq_of_getLsbD_eq fun i hi => ?_
  rw [packFields_getLsbD _ _ _ _ _ _ _ hi, packImm16_getLsbD _ _ _ _ hi]
  simp only [imm16Field, rcField, rdField, imm8Field, BitVec.getLsbD_extractLsb']
  interval_cases i <;> simp

@[simp] theorem xBits_xOperand (f : BitVec 4) : xBits (xOperand f) = f := by
  revert f
  decide

/-- A field is that of the polynomial register it names if its high 2 bits are zero. -/
theorem eq_pBits_pOperand_iff (f : BitVec 4) : f = pBits (pOperand f) ↔ f &&& 12 = 0 := by
  revert f
  decide

theorem testField_eq (w : Word) : testField w = (imm8Field w).getLsbD 7 := by simp [testField, imm8Field]

theorem maskField_eq (w : Word) : maskField w = (imm8Field w).extractLsb' 0 4 := by simp [maskField, imm8Field]

theorem eq_testMaskBits_iff (w : Word) :
    imm8Field w = testMaskBits (testField w) (maskField w) ↔ imm8Field w &&& 0x70 = 0 := by
  rw [testField_eq, maskField_eq]
  generalize imm8Field w = b
  revert b
  decide

theorem eq_testMaskBits_false_iff (w : Word) :
    imm8Field w = testMaskBits false (maskField w) ↔ imm8Field w &&& 0xF0 = 0 := by
  rw [maskField_eq]
  generalize imm8Field w = b
  revert b
  decide

@[simp] theorem testField_packFields (op : BitVec 8) (ra rb rc rd : BitVec 4) (test : Bool) (mask : BitVec 4) :
    testField (packFields op ra rb rc rd (testMaskBits test mask)) = test := by
  rw [testField_eq, imm8Field_packFields]
  revert test mask
  decide

@[simp] theorem maskField_packFields (op : BitVec 8) (ra rb rc rd : BitVec 4) (test : Bool) (mask : BitVec 4) :
    maskField (packFields op ra rb rc rd (testMaskBits test mask)) = mask := by
  rw [maskField_eq, imm8Field_packFields]
  revert test mask
  decide

/-! ## Formats (rule R82) -/

/-- The must-be-zero bits of a format, field by field. -/
def Format.MustBeZero (w : Word) : Format → Prop
  | .Z => raField w = 0 ∧ rbField w = 0 ∧ rcField w = 0 ∧ rdField w = 0 ∧ imm8Field w = 0
  | .D => raField w = 0 ∧ rbField w = 0 ∧ rcField w = 0 ∧ imm8Field w = 0
  | .A => rbField w = 0 ∧ rcField w = 0 ∧ rdField w = 0 ∧ imm8Field w = 0
  | .DA => rbField w = 0 ∧ rcField w = 0 ∧ imm8Field w = 0
  | .AB => rcField w = 0 ∧ rdField w = 0 ∧ imm8Field w = 0
  | .DAB => rcField w = 0 ∧ imm8Field w = 0
  | .DABC => imm8Field w = 0
  | .I => rbField w = 0
  | .PI => raField w = 0 ∧ rbField w = 0 ∧ rcField w = 0 ∧ rdField w &&& 12 = 0
  | .PAB => raField w &&& 12 = 0 ∧ rbField w &&& 12 = 0 ∧ rcField w = 0 ∧ rdField w &&& 12 = 0 ∧ imm8Field w = 0
  | .DP => raField w &&& 12 = 0 ∧ rbField w = 0 ∧ rcField w = 0 ∧ imm8Field w = 0
  | .DPB => raField w &&& 12 = 0 ∧ rcField w = 0 ∧ imm8Field w = 0
  | .M => raField w = 0 ∧ rbField w = 0 ∧ rcField w = 0 ∧ rdField w = 0 ∧ imm8Field w &&& 0x70 = 0
  | .M0 => raField w = 0 ∧ rbField w = 0 ∧ rcField w = 0 ∧ rdField w = 0 ∧ imm8Field w &&& 0xF0 = 0

/-- The operation code in its place, as a packed word. -/
theorem setWidth_shiftLeft_eq_packFields (op : BitVec 8) : op.setWidth 32 <<< 24 = packFields op 0 0 0 0 0 := by
  refine BitVec.eq_of_getLsbD_eq fun i hi => ?_
  rw [packFields_getLsbD _ _ _ _ _ _ _ hi]
  interval_cases i <;> simp

theorem and_packFields_eq_iff {w : Word} {op op' : BitVec 8} {ra rb rc rd : BitVec 4} {imm8 : BitVec 8} :
    w &&& packFields op' ra rb rc rd imm8 = packFields op 0 0 0 0 0 ↔
      opField w &&& op' = op ∧ raField w &&& ra = 0 ∧ rbField w &&& rb = 0 ∧ rcField w &&& rc = 0 ∧
        rdField w &&& rd = 0 ∧ imm8Field w &&& imm8 = 0 := by
  conv_lhs => rw [← packFields_fields w, packFields_and]
  simp [eq_packFields_iff]

theorem Format.selects_iff (f : Format) (op : BitVec 8) (w : Word) :
    f.selects op w = true ↔ opField w = op ∧ f.MustBeZero w := by
  have hFF (b : BitVec 8) : b &&& 255#8 = b := BitVec.and_allOnes
  have hF (b : BitVec 4) : b &&& 15#4 = b := BitVec.and_allOnes
  obtain ⟨mZ, mD, mA, mDA, mAB, mDAB, mDABC, mPI, mPAB, mDP, mDPB, mM, mM0⟩ := formatMasks_packed
  have mI : (0xFF0F0000 : Word) = packFields 0xFF 0 15 0 0 0 := rfl
  rw [Format.selects, setWidth_shiftLeft_eq_packFields, beq_iff_eq]
  cases f <;>
    simp only [Format.mask, mZ, mD, mA, mDA, mAB, mDAB, mDABC, mPI, mPAB, mDP, mDPB, mM, mM0, mI,
      and_packFields_eq_iff] <;>
    simp [hFF, hF, Format.MustBeZero]

/-! ## The decoder (rules R85, R86) -/

theorem acceptRow_eq_ok_iff {f : Format} {w : Word} {i j : Instr} :
    acceptRow f w j = .ok i ↔ f.selects (opField w) w = true ∧ j = i := by
  unfold acceptRow
  split <;> simp [*]

/-- The operation codes of the opcode map, each with the format of its row. -/
def opcodeFormats : List (BitVec 8 × Format) :=
  [(0x00, .Z), (0x01, .I), (0x02, .Z), (0x03, .I), (0x04, .I), (0x10, .DA), (0x11, .DA), (0x20, .PI), (0x21, .PAB),
   (0x22, .PAB), (0x23, .DP), (0x24, .DPB), (0x30, .Z), (0x31, .AB), (0x32, .A), (0x33, .DA), (0x34, .Z), (0x35, .D),
   (0x36, .Z), (0x37, .D), (0x38, .Z), (0x39, .Z), (0x3A, .DA), (0x40, .Z), (0x41, .PI), (0x42, .Z), (0x50, .DA),
   (0x51, .DA), (0x52, .DA), (0x53, .DABC), (0x54, .Z), (0x60, .Z), (0x61, .M), (0x62, .M0), (0x63, .Z), (0x64, .M),
   (0x65, .Z), (0x66, .D), (0x67, .DAB)]

theorem opcodeRows_eq_map :
    opcodeRows = opcodeFormats.map fun (op, f) => (f.mask, (op.setWidth 32 : Word) <<< 24) := rfl

/-- A word selects a row of the map if it selects the row of its own operation code. -/
theorem exists_selectsRow_iff (w : Word) : (∃ row ∈ opcodeRows, selectsRow w row = true) ↔
    ∃ f, (opField w, f) ∈ opcodeFormats ∧ f.selects (opField w) w = true := by
  rw [opcodeRows_eq_map]
  constructor
  · rintro ⟨row, hrow, hs⟩
    obtain ⟨⟨op, f⟩, hr, rfl⟩ := List.mem_map.mp hrow
    obtain ⟨rfl, -⟩ := (f.selects_iff op w).mp hs
    exact ⟨f, hr, hs⟩
  · rintro ⟨f, hr, hs⟩
    exact ⟨_, List.mem_map_of_mem hr, hs⟩

/-- An operation code of the map: the decoder accepts under the row's mask the command whose word this is when the
must-be-zero bits are zero. -/
theorem decode_of_mem {f : Format} {w : Word} (h : (opField w, f) ∈ opcodeFormats) :
    ∃ j, decode w = acceptRow f w j ∧ (w = encode j ↔ f.MustBeZero w) := by
  generalize hop : opField w = op at h
  fin_cases h
  all_goals
    refine ⟨_, by unfold decode; rw [hop]; rfl, ?_⟩
    simp [encode, packImm16_imm16Field, eq_packFields_iff, eq_pBits_pOperand_iff, eq_testMaskBits_iff,
      eq_testMaskBits_false_iff, Format.MustBeZero, hop]

/-- An operation code in no row of the map. -/
theorem decode_of_not_mem {w : Word} (h : ∀ f, (opField w, f) ∉ opcodeFormats) :
    decode w = .error (.unassignedOp (opField w)) := by
  have hop : opField w = BitVec.ofNat 8 (opField w).toNat := by simp
  rw [hop] at h
  unfold decode
  split
  case h_40 => rfl
  all_goals
    rename_i hn
    simp [opcodeFormats, hn] at h

/-- What decodes is the word of the command it decodes to, and selects a row. -/
theorem decode_eq_ok {w : Word} {i : Instr} (h : decode w = .ok i) :
    w = encode i ∧ ∃ f, (opField w, f) ∈ opcodeFormats ∧ f.selects (opField w) w = true := by
  by_cases hm : ∃ f, (opField w, f) ∈ opcodeFormats
  · obtain ⟨f, hf⟩ := hm
    obtain ⟨j, hj, he⟩ := decode_of_mem hf
    obtain ⟨hs, rfl⟩ := acceptRow_eq_ok_iff.mp (hj.symm.trans h)
    exact ⟨he.mpr ((f.selects_iff _ w).mp hs).2, f, hf, hs⟩
  · rw [decode_of_not_mem (not_exists.mp hm)] at h
    cases h

/-- The words that are commands are those that select a row (rules R82, R86). -/
theorem exists_decode_iff (w : Word) : (∃ i, decode w = .ok i) ↔ ∃ row ∈ opcodeRows, selectsRow w row = true := by
  rw [exists_selectsRow_iff]
  constructor
  · rintro ⟨i, hi⟩
    exact (decode_eq_ok hi).2
  · rintro ⟨f, hf, hs⟩
    obtain ⟨j, hj, -⟩ := decode_of_mem hf
    exact ⟨j, hj.trans (acceptRow_eq_ok_iff.mpr ⟨hs, rfl⟩)⟩

/-! ## The encoder -/

/-- The word of every command selects a row of the map: the family of Laws/PerInstr.lean as one statement. -/
theorem encode_selectsRow : ∀ i : Instr, ∃ row ∈ opcodeRows, selectsRow (encode i) row = true
  | .nop => Laws.SelectsRow.nop
  | .set ra imm16 => Laws.SelectsRow.set ra imm16
  | .reset => Laws.SelectsRow.reset
  | .csrr ra csr => Laws.SelectsRow.csrr ra csr
  | .csrw csr ra => Laws.SelectsRow.csrw csr ra
  | .gfLog rd ra => Laws.SelectsRow.gfLog rd ra
  | .gfExp rd ra => Laws.SelectsRow.gfExp rd ra
  | .polyNew pd shift => Laws.SelectsRow.polyNew pd shift
  | .polyMul pd pa pb => Laws.SelectsRow.polyMul pd pa pb
  | .polyMod pd pa pb => Laws.SelectsRow.polyMod pd pa pb
  | .polyLen rd pa => Laws.SelectsRow.polyLen rd pa
  | .polyGet rd pa rb => Laws.SelectsRow.polyGet rd pa rb
  | .bbClr => Laws.SelectsRow.bbClr
  | .bbPut ra rb => Laws.SelectsRow.bbPut ra rb
  | .bbPutbit ra => Laws.SelectsRow.bbPutbit ra
  | .bbGet rd ra => Laws.SelectsRow.bbGet rd ra
  | .segEnc => Laws.SelectsRow.segEnc
  | .segLen rd => Laws.SelectsRow.segLen rd
  | .segWrite => Laws.SelectsRow.segWrite
  | .utf8Len rd => Laws.SelectsRow.utf8Len rd
  | .dataSeg => Laws.SelectsRow.dataSeg
  | .dataFin => Laws.SelectsRow.dataFin
  | .verSel rd ra => Laws.SelectsRow.verSel rd ra
  | .rsBlocks => Laws.SelectsRow.rsBlocks
  | .rsGen pd ecCount => Laws.SelectsRow.rsGen pd ecCount
  | .rsEnc => Laws.SelectsRow.rsEnc
  | .bchFmt rd ra => Laws.SelectsRow.bchFmt rd ra
  | .bchVer rd ra => Laws.SelectsRow.bchVer rd ra
  | .bchDigit rd ra => Laws.SelectsRow.bchDigit rd ra
  | .maskTst rd ra rb rc => Laws.SelectsRow.maskTst rd ra rb rc
  | .score => Laws.SelectsRow.score
  | .gridInit => Laws.SelectsRow.gridInit
  | .gridStruct test mask => Laws.SelectsRow.gridStruct test mask
  | .gridMap mask => Laws.SelectsRow.gridMap mask
  | .gridFin => Laws.SelectsRow.gridFin
  | .makeimpl test mask => Laws.SelectsRow.makeimpl test mask
  | .make => Laws.SelectsRow.make
  | .qCount rd => Laws.SelectsRow.qCount rd
  | .qDark rd ra rb => Laws.SelectsRow.qDark rd ra rb

/-- The decoder reads the operands of a command back from its word. -/
theorem decode_encode_eq_acceptRow (i : Instr) : ∃ f, decode (encode i) = acceptRow f (encode i) i := by
  cases i <;> exact ⟨_, by simp [decode, encode]; rfl⟩

/-- Settles O1: the word of a command selects a row, so it decodes, and the row's operands are the command's. -/
theorem decodeInvertsEncode : Obligations.DecodeInvertsEncode := by
  unfold Obligations.DecodeInvertsEncode
  intro i
  obtain ⟨j, hj⟩ := (exists_decode_iff _).mpr (encode_selectsRow i)
  obtain ⟨f, hf⟩ := decode_encode_eq_acceptRow i
  obtain ⟨-, rfl⟩ := acceptRow_eq_ok_iff.mp (hf.symm.trans hj)
  exact hj

/-- Settles O2: a word is its fields, those that are no operand are zero by the mask, and the operands are the
command's. -/
theorem decodedWordIsItsOwnEncoding : Obligations.DecodedWordIsItsOwnEncoding := by
  unfold Obligations.DecodedWordIsItsOwnEncoding
  intro w i h
  exact (decode_eq_ok h).1.symm

theorem issueWord_illegal {w : Word} {s : State} (hf : s.fault = false) (hd : ¬ ∃ i, decode w = .ok i) :
    issueWord w s = .next (faulted w .illegalCommand w.toNat s) := by
  obtain ⟨e, he⟩ : ∃ e, decode w = .error e := by
    cases h : decode w with
    | ok i => exact absurd ⟨i, h⟩ hd
    | error e => exact ⟨e, rfl⟩
  obtain ⟨ht, -⟩ | ⟨-, hw⟩ := illegalWord_cases w s
  · rw [hf] at ht
    cases ht
  · rw [issueWord, he, hw, faultEntry_eq_faulted]

/-- Settles O3: the decoder accepts what selects the row of its operation code, and any other word is illegal. -/
theorem wordsOffTheMapAreIllegal : Obligations.WordsOffTheMapAreIllegal := by
  unfold Obligations.WordsOffTheMapAreIllegal
  refine ⟨exists_decode_iff, fun w s hf hoff => issueWord_illegal hf fun hd => ?_⟩
  obtain ⟨row, hrow, hs⟩ := (exists_decode_iff w).mp hd
  rw [hoff row hrow] at hs
  cases hs

/-- Settles O4: each word evaluates to its command. -/
theorem sampleWordsDecode : Obligations.SampleWordsDecode := by
  unfold Obligations.SampleWordsDecode
  exact ⟨rfl, rfl, rfl, rfl, rfl, rfl, rfl, rfl, rfl, rfl, rfl, rfl, rfl, rfl, rfl, rfl, rfl⟩

end Sys2Proof
end

section
/-! SUPPORT. A command word as the number its fields make (rule R81), as the statements of the single commands write
it. -/

namespace Sys2Proof

open Sys2Proof.Reference

/-- Appending a field is a shift by its width and a sum. -/
theorem toNat_append_eq_add {m n : Nat} (a : BitVec m) (b : BitVec n) :
    (a ++ b).toNat = a.toNat * 2 ^ n + b.toNat := by
  rw [BitVec.toNat_append, ← Nat.shiftLeft_add_eq_or_of_lt b.isLt, Nat.shiftLeft_eq]

/-- A word is the sum of its fields, each at its place. -/
theorem packFields_eq_commandWord (op : BitVec 8) (ra rb rc rd : BitVec 4) (imm8 : BitVec 8) :
    packFields op ra rb rc rd imm8 =
      commandWord op.toNat ra.toNat rb.toNat rc.toNat rd.toNat imm8.toNat := by
  apply BitVec.eq_of_toNat_eq
  simp only [packFields, commandWord, toNat_append_eq_add, BitVec.toNat_ofNat]
  omega

@[simp] theorem xBits_toNat (r : XReg) : (xBits r).toNat = r := Nat.mod_eq_of_lt r.isLt

/-- The word of a command of format DA. -/
theorem packFields_xBits_xBits (op : BitVec 8) (rd ra : XReg) :
    packFields op (xBits ra) 0 0 (xBits rd) 0 = commandWord op.toNat ra 0 0 rd 0 := by
  simp [packFields_eq_commandWord]

end Sys2Proof
end

section
/-! SUPPORT. `GF.LOG` and `GF.EXP` (rules R100 to R104): their rules over what `glog` and `gexp` answer. -/

namespace Sys2Proof.Machine

open Sys2Proof.Reference

theorem writeX_natCast (s : State) (r : XReg) (k : Nat) :
    s.writeX r k = { s with x := s.x.set r (BitVec.ofNat 32 k) } := by
  rw [State.writeX, toWord, BitVec.ofInt_natCast]

theorem bodyGfLog_ok {rd ra : XReg} {s : State} {k : Nat} (h : glog (s.readX ra) = .ok k) :
    bodyGfLog rd ra s = .ok (s.writeX rd k) := by
  rw [bodyGfLog, h]
  rfl

theorem bodyGfLog_error {rd ra : XReg} {s : State} {e : Raise} (h : glog (s.readX ra) = .error e) :
    bodyGfLog rd ra s = raise s e.cause e.info := by
  rw [bodyGfLog, h]
  rfl

/-- `GF.LOG` of an element of the field writes its logarithm. -/
theorem exec_gfLog_of_ok {rd ra : XReg} {s : State} {k : Nat} (hf : s.fault = false)
    (h : glog (s.readX ra) = .ok k) :
    exec (.gfLog rd ra) s = .next { s with x := s.x.set rd (BitVec.ofNat 32 k) } := by
  rw [← writeX_natCast]
  exact exec_of_ok (by simp) hf (bodyGfLog_ok h)

/-- `GF.LOG` takes the fault its lookup raises. -/
theorem exec_gfLog_of_error {rd ra : XReg} {s : State} {c : Cause} {info : Int} (hf : s.fault = false)
    (h : glog (s.readX ra) = .error ⟨c, info⟩) :
    exec (.gfLog rd ra) s = .next (faulted (encode (.gfLog rd ra)) c info s) :=
  exec_of_error (e := ⟨c, info, s⟩) (by simp) hf (bodyGfLog_error h)

/-- Settles O29: `ROM.LOG` is the logarithm by doubling on 1 to 255, and `glog` raises on either side. -/
theorem gfLogFindsTheExponent : Obligations.GfLogFindsTheExponent := by
  unfold Obligations.GfLogFindsTheExponent
  intro rd ra
  refine ⟨packFields_xBits_xBits 0x10 rd ra, fun s hf => ?_⟩
  obtain ⟨hlow, hg⟩ | ⟨hhigh, hg⟩ | ⟨h1, h255, k, hk, hp, hg⟩ := glog_cases s.x[ra].toInt
  · exact ⟨fun _ => exec_gfLog_of_error hf hg, fun _ => by omega, fun _ _ => by omega⟩
  · exact ⟨fun _ => by omega, fun _ => exec_gfLog_of_error hf hg, fun _ _ => by omega⟩
  · refine ⟨fun _ => by omega, fun _ => by omega, fun _ _ => ⟨k, hk, ?_, exec_gfLog_of_ok hf hg⟩⟩
    rw [hp, BitVec.toNat_ofNat]
    omega

/-- `GF.EXP` writes the power of 2. -/
theorem exec_gfExp_eq {rd ra : XReg} {s : State} (hf : s.fault = false) :
    exec (.gfExp rd ra) s =
      .next { s with x := s.x.set rd (BitVec.ofNat 32 (pow2 (s.readX ra % 255).toNat).toNat) } := by
  rw [← writeX_natCast, ← gexp_eq_pow2]
  exact exec_of_ok (by simp) hf rfl

/-- Settles O30: `ROM.EXP` is the table of the powers of 2 by doubling, none of which is 0. -/
theorem gfExpIsThePowerOfTwo : Obligations.GfExpIsThePowerOfTwo := by
  unfold Obligations.GfExpIsThePowerOfTwo
  intro rd ra
  refine ⟨packFields_xBits_xBits 0x11 rd ra, fun s hf => ?_⟩
  generalize hn : (s.x[ra].toInt % 255).toNat = n
  have hne : (pow2 n).toNat ≠ 0 := fun h => pow2_ne_zero n (BitVec.eq_of_toNat_eq h)
  have hlt := (pow2 n).isLt
  refine ⟨by omega, by omega, ?_⟩
  rw [← hn]
  exact exec_gfExp_eq hf

end Sys2Proof.Machine
end

section
/-! SUPPORT. Polynomials over the field (rules R12, R120 to R124, R128): sums and products of coefficient lists, and
what the loops of `pmul` and `pmod` answer in their terms. -/

namespace Sys2Proof.Machine

open Sys2Proof.Reference

/-! ## Leading zeros (rule R120) -/

@[simp] theorem zeros_length (n : Nat) : (zeros n).length = n := List.length_replicate

theorem zeros_succ (n : Nat) : zeros (n + 1) = 0 :: zeros n := rfl

theorem zeros_append_zeros (m n : Nat) : zeros m ++ zeros n = zeros (m + n) := List.replicate_append_replicate

/-- The construction takes off leading zeros and nothing else. -/
theorem exists_zeros_append_dropWhile (raw : List Byte) : ∃ n, zeros n ++ raw.dropWhile (· == 0) = raw := by
  have h : raw.takeWhile (· == 0) = zeros (raw.takeWhile (· == 0)).length :=
    List.eq_replicate_of_mem fun c hc => by simpa using List.mem_takeWhile_imp hc
  exact ⟨_, by rw [← h, List.takeWhile_append_dropWhile]⟩

theorem head?_dropWhile_ne_zero (raw : List Byte) : (raw.dropWhile (· == 0)).head? ≠ some 0 := by
  intro h
  have := List.head?_dropWhile_not (· == 0) raw
  rw [h] at this
  cases this

theorem poly_zero_shift (raw : List Byte) : poly raw 0 = raw.dropWhile (· == 0) := List.append_nil _

theorem head?_poly_ne_zero (raw : List Byte) : (poly raw 0).head? ≠ some 0 := by
  rw [poly_zero_shift]
  exact head?_dropWhile_ne_zero raw

theorem poly_of_head {raw : List Byte} (h : raw.head? ≠ some 0) : poly raw 0 = raw := by
  rw [poly_zero_shift]
  cases raw with
  | nil => rfl
  | cons c raw => exact List.dropWhile_cons_of_neg (by simpa using h)

theorem padLeft_eq (n : Nat) (c : Poly) : padLeft n c = zeros (n - c.length) ++ c := rfl

theorem padLeft_length {n : Nat} {c : Poly} (h : c.length ≤ n) : (padLeft n c).length = n := by
  simp [padLeft_eq, h]

theorem padLeft_self (c : Poly) : padLeft c.length c = c := by simp [padLeft_eq, zeros]

/-- What is padded may have had its leading zeros. -/
theorem padLeft_poly {n : Nat} {c : Poly} (h : c.length ≤ n) : padLeft n (poly c 0) = padLeft n c := by
  obtain ⟨j, hj⟩ := exists_zeros_append_dropWhile c
  have hlen : j + (c.dropWhile (· == 0)).length = c.length := by simpa using congrArg List.length hj
  rw [poly_zero_shift, padLeft_eq, padLeft_eq]
  conv_rhs => rw [← hj, ← List.append_assoc, zeros_append_zeros, hj]
  congr 2
  omega

/-! ## Sums -/

theorem polyAdd_cons (a b : Byte) (as bs : Poly) : polyAdd (a :: as) (b :: bs) = (a ^^^ b) :: polyAdd as bs := rfl

theorem polyAdd_length {a b : Poly} (h : a.length = b.length) : (polyAdd a b).length = a.length := by
  simp [polyAdd, h]

theorem polyAdd_append {a b a' b' : Poly} (h : a.length = b.length) :
    polyAdd (a ++ a') (b ++ b') = polyAdd a b ++ polyAdd a' b' := List.zipWith_append h

theorem polyAdd_comm (a b : Poly) : polyAdd a b = polyAdd b a := List.zipWith_comm_of_comm BitVec.xor_comm

theorem polyAdd_assoc (a b c : Poly) : polyAdd (polyAdd a b) c = polyAdd a (polyAdd b c) := by
  induction a generalizing b c with
  | nil => rfl
  | cons x a ih =>
    cases b with
    | nil => rfl
    | cons y b =>
      cases c with
      | nil => rfl
      | cons z c => simp only [polyAdd_cons, BitVec.xor_assoc, ih]

theorem polyAdd_zeros (a : Poly) : polyAdd a (zeros a.length) = a := by
  induction a with
  | nil => rfl
  | cons x a ih =>
    rw [List.length_cons, zeros_succ, polyAdd_cons, ih]
    exact congrArg (· :: a) BitVec.xor_zero

theorem zeros_polyAdd {n : Nat} {a : Poly} (h : a.length = n) : polyAdd (zeros n) a = a := by
  rw [polyAdd_comm, ← h, polyAdd_zeros]

theorem polyAdd_self (a : Poly) : polyAdd a a = zeros a.length := by
  induction a with
  | nil => rfl
  | cons x a ih =>
    rw [List.length_cons, zeros_succ, polyAdd_cons, ih, BitVec.xor_self]
    rfl

theorem padLeft_polyAdd (n : Nat) {a b : Poly} (h : a.length = b.length) :
    padLeft n (polyAdd a b) = polyAdd (padLeft n a) (padLeft n b) := by
  rw [padLeft_eq, padLeft_eq, padLeft_eq, polyAdd_append (by simp [h]), polyAdd_length h, h,
    zeros_polyAdd (zeros_length _)]

/-! ## Multiples and products (rules R104, R122) -/

/-- A polynomial times an element of the field. -/
def scale (t : Byte) (e : Poly) : Poly := e.map (fieldMul t)

@[simp] theorem scale_length (t : Byte) (e : Poly) : (scale t e).length = e.length := List.length_map _

theorem scale_zero (e : Poly) : scale 0 e = zeros e.length := by
  rw [scale, funext fieldMul_zero_left]
  exact List.map_const

theorem scale_xor (t u : Byte) (e : Poly) : scale (t ^^^ u) e = polyAdd (scale t e) (scale u e) := by
  induction e with
  | nil => rfl
  | cons c e ih => exact congrArg₂ List.cons (fieldMul_xor_left t u c) ih

/-- The terms of coefficient `k` of a product. -/
def coefficientTerms (a b : Poly) (k : Nat) : List Byte :=
  (List.range (k + 1)).map fun i => fieldMul (a.getD i 0) (b.getD (k - i) 0)

theorem polyMul_length (a b : Poly) : (polyMul a b).length = a.length + b.length - 1 := by simp [polyMul]

theorem getElem_polyMul {a b : Poly} {k : Nat} (h : k < (polyMul a b).length) :
    (polyMul a b)[k] = fieldSum (coefficientTerms a b k) := by
  simp [polyMul, coefficientTerms]

theorem coefficientTerms_cons (t : Byte) (q e : Poly) (k : Nat) :
    coefficientTerms (t :: q) e (k + 1) = fieldMul t (e.getD (k + 1) 0) :: coefficientTerms q e k := by
  simp [coefficientTerms, List.range_succ_eq_map (n := k + 1), Function.comp_def]

theorem coefficientTerms_nil (e : Poly) (k : Nat) : coefficientTerms [] e k = zeros (k + 1) := by
  refine List.eq_replicate_iff.mpr ⟨by simp [coefficientTerms], fun c hc => ?_⟩
  obtain ⟨i, -, rfl⟩ := List.mem_map.mp hc
  exact fieldMul_zero_left _

theorem fieldSum_zeros (n : Nat) : fieldSum (zeros n) = 0 := by
  induction n with
  | zero => rfl
  | succ n ih => exact (congrArg (0 ^^^ ·) ih).trans BitVec.xor_zero

theorem polyMul_nil (e : Poly) : polyMul [] e = zeros (e.length - 1) := by
  refine List.eq_replicate_iff.mpr ⟨by simp [polyMul_length], fun c hc => ?_⟩
  obtain ⟨k, hk, rfl⟩ := List.mem_iff_getElem.mp hc
  rw [getElem_polyMul, coefficientTerms_nil, fieldSum_zeros]

/-- A product by its first factor, coefficient by coefficient (the rows of `pmul`). -/
theorem polyMul_cons (t : Byte) (q : Poly) {e : Poly} (he : e ≠ []) :
    polyMul (t :: q) e = polyAdd (scale t e ++ zeros q.length) (0 :: polyMul q e) := by
  have hpos : 0 < e.length := List.length_pos_of_ne_nil he
  have hrow : ∀ k (h : k < (scale t e ++ zeros q.length).length),
      (scale t e ++ zeros q.length)[k] = fieldMul t (e.getD k 0) := by
    intro k h
    by_cases hk : k < e.length
    · rw [List.getElem_append_left (by simpa using hk), List.getD_eq_getElem _ _ hk]
      exact List.getElem_map _
    · rw [List.getElem_append_right (by simpa using hk), List.getD_eq_default _ _ (by omega), fieldMul_zero_right]
      exact List.getElem_replicate _
  refine List.ext_getElem ?_ fun k hk hk' => ?_
  · simp [polyAdd, polyMul_length]
    omega
  · rw [getElem_polyMul]
    simp only [polyAdd, List.getElem_zipWith, hrow]
    cases k with
    | zero => simp [coefficientTerms, fieldSum]
    | succ k =>
      rw [coefficientTerms_cons, List.getElem_cons_succ, getElem_polyMul]
      rfl

/-- The leading coefficient of a product. -/
theorem head?_polyMul (t c : Byte) (q e : Poly) : (polyMul (t :: q) (c :: e)).head? = some (fieldMul t c) := by
  simp [polyMul_cons, scale, polyAdd]

theorem polyMul_zeros_append (n : Nat) (q : Poly) {e : Poly} (he : e ≠ []) :
    polyMul (zeros n ++ q) e = zeros n ++ polyMul q e := by
  induction n with
  | zero => rfl
  | succ n ih =>
    have hpos : 0 < e.length := List.length_pos_of_ne_nil he
    rw [zeros_succ, List.cons_append, polyMul_cons _ _ he, ih, scale_zero, zeros_append_zeros, zeros_polyAdd]
    · rfl
    · simp [polyMul_length]
      omega

theorem polyMul_zeros (n : Nat) {e : Poly} (he : e ≠ []) : polyMul (zeros n) e = zeros (n + e.length - 1) := by
  rw [← List.append_nil (zeros n), polyMul_zeros_append n [] he, polyMul_nil, zeros_append_zeros,
    Nat.add_sub_assoc (List.length_pos_of_ne_nil he)]

/-- Padding the first factor pads the product. -/
theorem polyMul_padLeft {m : Nat} {q e : Poly} (hq : q ≠ []) (he : e ≠ []) (hm : q.length ≤ m) :
    polyMul (padLeft m q) e = padLeft (m + e.length - 1) (polyMul q e) := by
  have hpos : 0 < q.length := List.length_pos_of_ne_nil hq
  rw [padLeft_eq, polyMul_zeros_append _ _ he, padLeft_eq, polyMul_length]
  congr 2
  omega

/-- A multiple by a single term. -/
theorem polyMul_term (t : Byte) (n : Nat) {e : Poly} (he : e ≠ []) :
    polyMul (t :: zeros n) e = scale t e ++ zeros n := by
  have hpos : 0 < e.length := List.length_pos_of_ne_nil he
  have hrow : 0 :: polyMul (zeros n) e = zeros (scale t e ++ zeros n).length := by
    rw [polyMul_zeros n he, ← zeros_succ, List.length_append, scale_length, zeros_length]
    congr 1
    omega
  rw [polyMul_cons _ _ he, zeros_length, hrow, polyAdd_zeros]

/-- A product is linear in its first factor. -/
theorem polyMul_polyAdd {q q' e : Poly} (he : e ≠ []) (h : q.length = q'.length) :
    polyMul (polyAdd q q') e = polyAdd (polyMul q e) (polyMul q' e) := by
  induction q generalizing q' with
  | nil =>
    obtain rfl : q' = [] := List.length_eq_zero_iff.mp h.symm
    rw [polyAdd_self, polyMul_nil]
    simp [polyMul_nil, polyAdd, zeros]
  | cons t q ih =>
    cases q' with
    | nil => cases h
    | cons u q' =>
      have hl : q.length = q'.length := Nat.succ.inj h
      have hrow : scale (t ^^^ u) e ++ zeros (polyAdd q q').length =
          polyAdd (scale t e ++ zeros q.length) (scale u e ++ zeros q'.length) := by
        rw [polyAdd_append (by simp), scale_xor, polyAdd_length hl, ← hl, zeros_polyAdd (zeros_length _)]
      have hrest : (0 : Byte) :: polyAdd (polyMul q e) (polyMul q' e) =
          polyAdd (0 :: polyMul q e) (0 :: polyMul q' e) := rfl
      rw [polyAdd_cons, polyMul_cons _ _ he, polyMul_cons _ _ he, polyMul_cons _ _ he, hrow, ih hl, hrest]
      simp only [polyAdd_assoc]
      rw [← polyAdd_assoc (scale u e ++ _), polyAdd_comm (scale u e ++ _), polyAdd_assoc]

end Sys2Proof.Machine
end

section
/-! SUPPORT. What `pmul` and `pmod` answer (rules R15, R122, R124, R128): without a zero coefficient their loops add
multiples of one operand, with one they raise `LogZero`. -/

namespace Sys2Proof.Machine

open Sys2Proof.Reference

theorem ok_bind {ε α β : Type} (a : α) (f : α → Except ε β) : (.ok a >>= f) = f a := rfl

/-! ## Adding a row -/

/-- What both inner loops do to the accumulator: the coefficients of a row added from position `k` on. -/
def addRow : (row : List Byte) → (k : Nat) → (num : Poly) → Poly
  | [], _, num => num
  | v :: row, k, num => addRow row (k + 1) (xorAt num k v)

theorem addRow_cons_succ (row : List Byte) (k : Nat) (c : Byte) (num : Poly) :
    addRow row (k + 1) (c :: num) = c :: addRow row k num := by
  induction row generalizing k num with
  | nil => rfl
  | cons v row ih => exact ih (k + 1) (xorAt num k v)

/-- A row leaves what stands before its position. -/
theorem addRow_append (row : List Byte) (pre num : Poly) :
    addRow row pre.length (pre ++ num) = pre ++ addRow row 0 num := by
  induction pre with
  | nil => rfl
  | cons c pre ih => exact (addRow_cons_succ row _ c _).trans (congrArg (c :: ·) ih)

/-- A row is added to the leading coefficients. -/
theorem addRow_zero {row : List Byte} {num : Poly} (h : row.length ≤ num.length) :
    addRow row 0 num = polyAdd num (row ++ zeros (num.length - row.length)) := by
  induction row generalizing num with
  | nil => exact (polyAdd_zeros num).symm
  | cons v row ih =>
    cases num with
    | nil => cases h
    | cons c num =>
      rw [addRow, show xorAt (c :: num) 0 v = (c ^^^ v) :: num from rfl, addRow_cons_succ,
        ih (Nat.le_of_succ_le_succ h), List.length_cons, List.length_cons, Nat.add_sub_add_right]
      rfl

/-! ## The product -/

theorem pmulRow_ok {ai : Byte} {b : List Byte} (ha : ai ≠ 0) (hb : 0 ∉ b) (k : Nat) (num : Poly) :
    pmulRow ai b k num = .ok (addRow (scale ai b) k num) := by
  induction b generalizing k num with
  | nil => rfl
  | cons bj b ih =>
    obtain ⟨hbj, hb⟩ := List.ne_and_not_mem_of_not_mem_cons hb
    rcases gfmul_cases ai bj with ⟨h0, -⟩ | ⟨-, -, hg⟩
    · exact absurd h0 (not_or.mpr ⟨ha, Ne.symm hbj⟩)
    · rw [pmulRow, hg]
      exact ih hb (k + 1) _

theorem pmulRow_error {ai : Byte} {b : List Byte} (hb : b ≠ []) (h0 : ai = 0 ∨ 0 ∈ b) (k : Nat) (num : Poly) :
    pmulRow ai b k num = .error ⟨.logZero, 0⟩ := by
  induction b generalizing k num with
  | nil => exact absurd rfl hb
  | cons bj b ih =>
    rcases gfmul_cases ai bj with ⟨-, hg⟩ | ⟨ha, hbj, hg⟩
    · rw [pmulRow, hg]
      rfl
    · have hmem : 0 ∈ b := (List.mem_cons.mp (h0.resolve_left ha)).resolve_left hbj.symm
      rw [pmulRow, hg]
      exact ih (List.ne_nil_of_mem hmem) (.inr hmem) (k + 1) _

/-- The rows from a position on add the product there. -/
theorem pmulRows_ok {a b : List Byte} (ha : 0 ∉ a) (hn : b ≠ []) (hb : 0 ∉ b) (pre : Poly) {num : Poly}
    (hl : num.length = a.length + b.length - 1) :
    pmulRows b a pre.length (pre ++ num) = .ok (pre ++ polyAdd num (polyMul a b)) := by
  have hpos : 0 < b.length := List.length_pos_of_ne_nil hn
  induction a generalizing pre num with
  | nil =>
    have hz : polyMul [] b = zeros num.length := by rw [polyMul_nil, hl, List.length_nil, Nat.zero_add]
    rw [hz, polyAdd_zeros]
    rfl
  | cons ai a ih =>
    obtain ⟨hai, ha⟩ := List.ne_and_not_mem_of_not_mem_cons ha
    rw [List.length_cons] at hl
    have hrow : addRow (scale ai b) 0 num = polyAdd num (scale ai b ++ zeros a.length) := by
      rw [addRow_zero (by simp; omega), scale_length, show num.length - b.length = a.length by omega]
    have hlen : (polyAdd num (scale ai b ++ zeros a.length)).length = num.length :=
      polyAdd_length (by simp; omega)
    rw [pmulRows, pmulRow_ok (Ne.symm hai) hb, addRow_append, hrow, polyMul_cons _ _ hn, ← polyAdd_assoc]
    cases hnum : polyAdd num (scale ai b ++ zeros a.length) with
    | nil =>
      rw [hnum, List.length_nil] at hlen
      omega
    | cons c rest =>
      rw [hnum, List.length_cons] at hlen
      have hstep := ih ha (pre ++ [c]) (num := rest) (by omega)
      rw [List.length_append, List.append_assoc, List.append_assoc] at hstep
      rw [polyAdd_cons, show c ^^^ (0 : Byte) = c from BitVec.xor_zero]
      exact hstep

theorem pmulRows_error {a b : List Byte} (ha : a ≠ []) (hb : b ≠ []) (h0 : 0 ∈ a ∨ 0 ∈ b) (i : Nat) (num : Poly) :
    pmulRows b a i num = .error ⟨.logZero, 0⟩ := by
  induction a generalizing i num with
  | nil => exact absurd rfl ha
  | cons ai a ih =>
    by_cases hrow : ai = 0 ∨ 0 ∈ b
    · rw [pmulRows, pmulRow_error hb hrow]
      rfl
    · obtain ⟨hai, hmem⟩ := not_or.mp hrow
      have ha0 : 0 ∈ a := (List.mem_cons.mp (h0.resolve_right hmem)).resolve_left (Ne.symm hai)
      rw [pmulRows, pmulRow_ok hai hmem]
      exact ih (List.ne_nil_of_mem ha0) (.inl ha0) (i + 1) _

/-- A product of polynomials without a zero coefficient has none in front. -/
theorem head?_polyMul_ne_zero {a b : Poly} (ha : a ≠ []) (hb : b ≠ []) (ha0 : 0 ∉ a) (hb0 : 0 ∉ b) :
    (polyMul a b).head? ≠ some 0 := by
  obtain ⟨ai, a, rfl⟩ := List.exists_cons_of_ne_nil ha
  obtain ⟨bj, b, rfl⟩ := List.exists_cons_of_ne_nil hb
  obtain ⟨hai, -⟩ := List.ne_and_not_mem_of_not_mem_cons ha0
  obtain ⟨hbj, -⟩ := List.ne_and_not_mem_of_not_mem_cons hb0
  rw [head?_polyMul, ne_eq, Option.some_inj]
  exact fieldMul_ne_zero (Ne.symm hai) (Ne.symm hbj)

/-- `pmul` is the product (rules R122, R128(a)). -/
theorem pmul_ok {a b : Poly} (ha : a ≠ []) (hb : b ≠ []) (ha0 : 0 ∉ a) (hb0 : 0 ∉ b) :
    pmul a b = .ok (polyMul a b) := by
  have hrows : pmulRows b a 0 (zeros (a.length + b.length - 1)) = .ok (polyMul a b) := by
    have h := pmulRows_ok ha0 hb hb0 [] (zeros_length _)
    rwa [List.nil_append, List.nil_append, zeros_polyAdd (polyMul_length a b)] at h
  rw [pmul, if_neg (by simp [ha, hb]), hrows]
  exact congrArg Except.ok (poly_of_head (head?_polyMul_ne_zero ha hb ha0 hb0))

theorem pmul_empty {a b : Poly} (h : a = [] ∨ b = []) : pmul a b = .error ⟨.operandRange, 0⟩ :=
  if_pos (h.imp List.length_eq_zero_iff.mpr List.length_eq_zero_iff.mpr)

theorem pmul_zero {a b : Poly} (ha : a ≠ []) (hb : b ≠ []) (h0 : 0 ∈ a ∨ 0 ∈ b) :
    pmul a b = .error ⟨.logZero, 0⟩ := by
  rw [pmul, if_neg (by simp [ha, hb]), pmulRows_error ha hb h0]
  rfl

/-! ## The remainder -/

theorem gexp_add (m n : Int) : gexp (m + n) = fieldMul (gexp m) (gexp n) := by
  rw [gexp_eq_pow2, gexp_eq_pow2, gexp_eq_pow2, fieldMul_pow2_pow2, ← pow2_mod (_ + _)]
  congr 1
  omega

theorem pmodXor_ok {ratio : Int} {e : List Byte} (he : 0 ∉ e) (i : Nat) (num : Poly) :
    pmodXor ratio e i num = .ok (addRow (scale (gexp ratio) e) i num) := by
  induction e generalizing i num with
  | nil => rfl
  | cons ei e ih =>
    obtain ⟨hei, he⟩ := List.ne_and_not_mem_of_not_mem_cons he
    rcases glogByte_cases ei with ⟨h0, -⟩ | ⟨-, k, -, hk, hg⟩
    · exact absurd h0 (Ne.symm hei)
    · have hv : gexp (k + ratio) = fieldMul (gexp ratio) ei := by rw [Int.add_comm, gexp_add, gexp_natCast, hk]
      rw [pmodXor, hg, ok_bind, hv]
      exact ih he (i + 1) _

theorem pmodXor_error {ratio : Int} {e : List Byte} (he : 0 ∈ e) (i : Nat) (num : Poly) :
    pmodXor ratio e i num = .error ⟨.logZero, 0⟩ := by
  induction e generalizing i num with
  | nil => cases he
  | cons ei e ih =>
    rcases glogByte_cases ei with ⟨-, hg⟩ | ⟨hei, k, -, -, hg⟩
    · rw [pmodXor, hg]
      rfl
    · rw [pmodXor, hg]
      exact ih ((List.mem_cons.mp he).resolve_left hei.symm) (i + 1) _

/-- A pass adds the multiple of the divisor by one term, and strips what it cancels. -/
theorem pmodPass_ok {a e : Poly} (he : e ≠ []) (he0 : 0 ∉ e) (hl : e.length ≤ a.length) (ha : a.head? ≠ some 0) :
    ∃ t, pmodPass a e = .ok (poly (polyAdd a (polyMul (t :: zeros (a.length - e.length)) e)) 0) := by
  obtain ⟨e0, e, rfl⟩ := List.exists_cons_of_ne_nil he
  obtain ⟨a0, a, rfl⟩ := List.exists_cons_of_length_pos ((Nat.succ_pos _).trans_le hl)
  obtain ⟨he0', -⟩ := List.ne_and_not_mem_of_not_mem_cons he0
  obtain ⟨h0, -⟩ | ⟨-, la, -, -, hla⟩ := glogByte_cases a0
  · exact absurd (congrArg some h0) ha
  obtain ⟨h0, -⟩ | ⟨-, le, -, -, hle⟩ := glogByte_cases e0
  · exact absurd h0.symm he0'
  refine ⟨gexp (la - le), ?_⟩
  rw [pmodPass, List.headD_cons, List.headD_cons, hla, hle, ok_bind, ok_bind, pmodXor_ok he0,
    addRow_zero (by simpa using hl), scale_length, polyMul_term _ _ he]
  rfl

theorem pmodPass_error {a e : Poly} (ha : a ≠ []) (h0 : a.head? = some 0 ∨ 0 ∈ e) :
    pmodPass a e = .error ⟨.logZero, 0⟩ := by
  obtain ⟨a0, a, rfl⟩ := List.exists_cons_of_ne_nil ha
  obtain ⟨-, hla⟩ | ⟨ha0, la, -, -, hla⟩ := glogByte_cases a0
  · rw [pmodPass, List.headD_cons, hla]
    rfl
  have he0 : 0 ∈ e := h0.resolve_left fun h => ha0 (Option.some_inj.mp h)
  obtain ⟨-, hle⟩ | ⟨-, le, -, -, hle⟩ := glogByte_cases (e.headD 0)
  · rw [pmodPass, List.headD_cons, hla, hle]
    rfl
  · rw [pmodPass, List.headD_cons, hla, hle, ok_bind, ok_bind, pmodXor_error he0]
    rfl

/-- The division of a dividend from the division of what is left once a multiple of the divisor has been added. -/
theorem division_of_polyAdd {m : Nat} {a e q r term : Poly} (he : e ≠ []) (hterm : term ≠ [])
    (ha : a.length = (polyMul term e).length) (hm : term.length ≤ m) (hq : q.length = m)
    (h : polyAdd (polyMul q e) (padLeft (m + e.length - 1) r) =
      padLeft (m + e.length - 1) (poly (polyAdd a (polyMul term e)) 0)) :
    polyAdd (polyMul (polyAdd q (padLeft m term)) e) (padLeft (m + e.length - 1) r) =
      padLeft (m + e.length - 1) a := by
  have hn : (polyMul term e).length ≤ m + e.length - 1 := by rw [polyMul_length]; omega
  have hmul := polyMul_padLeft hterm he hm
  generalize m + e.length - 1 = n at h hn hmul ⊢
  calc polyAdd (polyMul (polyAdd q (padLeft m term)) e) (padLeft n r)
      = polyAdd (padLeft n (polyMul term e)) (polyAdd (polyMul q e) (padLeft n r)) := by
        rw [polyMul_polyAdd he (hq.trans (padLeft_length hm).symm), hmul, polyAdd_comm (polyMul q e), polyAdd_assoc]
    _ = polyAdd (padLeft n (polyMul term e)) (polyAdd (padLeft n a) (padLeft n (polyMul term e))) := by
        rw [h, padLeft_poly (by rwa [polyAdd_length ha, ha]), padLeft_polyAdd n ha]
    _ = padLeft n a := by
        rw [polyAdd_comm (padLeft n a), ← polyAdd_assoc, polyAdd_self,
          zeros_polyAdd (by rw [padLeft_length (ha ▸ hn), padLeft_length hn])]

/-- The loop ends with the dividend less a multiple of the divisor, by a quotient of any length that is enough. -/
theorem pmodLoop_ok {e : Poly} (he : e ≠ []) (he0 : 0 ∉ e) {rounds : Nat} {a : Poly} (hr : a.length < rounds)
    (ha : a.head? ≠ some 0) {m : Nat} (hm : a.length ≤ m + e.length - 1) :
    ∃ r q, pmodLoop e rounds a = .ok r ∧ r.head? ≠ some 0 ∧ q.length = m ∧
      polyAdd (polyMul q e) (padLeft (m + e.length - 1) r) = padLeft (m + e.length - 1) a := by
  have hpos : 0 < e.length := List.length_pos_of_ne_nil he
  induction rounds generalizing a with
  | zero => omega
  | succ rounds ih =>
    unfold pmodLoop
    split
    next =>
      exact ⟨a, zeros m, rfl, ha, zeros_length m, by rw [polyMul_zeros m he, zeros_polyAdd (padLeft_length hm)]⟩
    next hge =>
      obtain ⟨t, hpass⟩ := pmodPass_ok he he0 (Nat.le_of_not_lt hge) ha
      have hlt := pmodPass_length_lt (List.ne_nil_of_length_pos (by omega)) he hpass
      obtain ⟨r, q, hloop, hhead, hq, heq⟩ := ih (hlt.trans_le (Nat.le_of_lt_succ hr)) (head?_poly_ne_zero _)
        (hlt.le.trans hm)
      have hterm : (t :: zeros (a.length - e.length)).length = a.length - e.length + 1 := by simp
      refine ⟨r, polyAdd q (padLeft m (t :: zeros (a.length - e.length))), ?_, hhead, ?_, ?_⟩
      · rw [hpass]
        exact hloop
      · rw [polyAdd_length (hq.trans (padLeft_length (by omega)).symm), hq]
      · exact division_of_polyAdd he (List.cons_ne_nil _ _) (by rw [polyMul_length, hterm]; omega) (by omega) hq heq

/-- `pmod` is the remainder (rules R124, R128(b)). -/
theorem pmod_ok {a e : Poly} (he : e ≠ []) (he0 : 0 ∉ e) (hl : e.length ≤ a.length) (ha : a.head? ≠ some 0) :
    ∃ r q, pmod a e = .ok r ∧ r.head? ≠ some 0 ∧ q.length = a.length - e.length + 1 ∧
      polyAdd (polyMul q e) (padLeft a.length r) = a := by
  have hpos : 0 < e.length := List.length_pos_of_ne_nil he
  obtain ⟨r, q, hloop, hhead, hq, heq⟩ :=
    pmodLoop_ok (m := a.length - e.length + 1) he he0 (Nat.lt_succ_self _) ha (by omega)
  rw [show a.length - e.length + 1 + e.length - 1 = a.length by omega] at heq
  exact ⟨r, q, by rw [pmod, if_neg (by omega), hloop], hhead, hq, heq.trans (padLeft_self a)⟩

theorem pmod_empty (a : Poly) : pmod a [] = .error ⟨.operandRange, 0⟩ := rfl

theorem pmod_of_length_lt {a e : Poly} (h : a.length < e.length) : pmod a e = .ok a := by
  rw [pmod, if_neg (by omega), pmodLoop, if_pos h]

theorem pmod_zero {a e : Poly} (he : e ≠ []) (hl : e.length ≤ a.length) (h0 : a.head? = some 0 ∨ 0 ∈ e) :
    pmod a e = .error ⟨.logZero, 0⟩ := by
  have hpos : 0 < e.length := List.length_pos_of_ne_nil he
  rw [pmod, if_neg (by omega), pmodLoop, if_neg (by omega),
    pmodPass_error (List.ne_nil_of_length_pos (by omega)) h0]
  rfl

end Sys2Proof.Machine
end

section
/-! SUPPORT. The commands of 41_poly.md and `BB.GET` (rules R121, R123, R125 to R127, R149): their rules over what the
arithmetic answers. -/

namespace Sys2Proof

@[simp] theorem pBits_toNat (r : PReg) : (pBits r).toNat = r := Nat.mod_eq_of_lt (r.isLt.trans (by decide))

end Sys2Proof

namespace Sys2Proof.Machine

open Sys2Proof.Reference

/-- A command that faults in the state before it and keeps its outputs. -/
theorem exec_of_raise {i : Instr} {s : State} {c : Cause} {info : Int} (hi : i ≠ .reset)
    (ho : outputsOf i = Outputs.kept) (hf : s.fault = false) (hb : bodyOf i s = raise s c info) :
    exec i s = .next (faulted (encode i) c info s) := by
  rw [exec_eq i s hi, ho, hb, complete_raise_kept hf, faultEntry_eq_faulted]

/-- A command that ends in the store of a polynomial: it is stored, or its length is the fault's. -/
theorem exec_of_storePoly {i : Instr} {pd : PReg} {s : State} {c : Poly} (hi : i ≠ .reset)
    (ho : outputsOf i = Outputs.kept) (hf : s.fault = false) (hb : bodyOf i s = storePoly pd c s) :
    (c.length ≤ 256 → exec i s = .next { s with p := s.p.set pd c }) ∧
      (256 < c.length → exec i s = .next (faulted (encode i) .bufferLimit c.length s)) := by
  rcases storePoly_cases pd c s with ⟨hl, hst⟩ | ⟨hl, hst⟩
  · exact ⟨fun _ => exec_of_ok hi hf (hb.trans hst), fun hgt => absurd hgt (Nat.not_lt.mpr hl)⟩
  · exact ⟨fun hle => absurd hl (Nat.not_lt.mpr hle), fun _ => exec_of_raise hi ho hf (hb.trans hst)⟩

/-! ## `POLY.NEW` -/

/-- The construction by the place of the first coefficient that it keeps. -/
theorem exists_drop_append_eq_poly (raw : List Byte) :
    ∃ off ≤ raw.length, (∀ c ∈ raw.take off, c = 0) ∧ (raw.drop off).head? ≠ some 0 ∧
      ∀ shift, raw.drop off ++ List.replicate shift 0 = poly raw shift := by
  obtain ⟨off, hoff⟩ := exists_zeros_append_dropWhile raw
  have hlen : off + (raw.dropWhile (· == 0)).length = raw.length := by simpa using congrArg List.length hoff
  have htake : raw.take off = zeros off := by
    conv_lhs => rw [← hoff]
    exact List.take_left' (zeros_length off)
  have hdrop : raw.drop off = raw.dropWhile (· == 0) := by
    conv_lhs => rw [← hoff]
    exact List.drop_left' (zeros_length off)
  refine ⟨off, by omega, fun c hc => (List.mem_replicate.mp (htake ▸ hc)).2, ?_, fun shift => ?_⟩
  · rw [hdrop]
    exact head?_dropWhile_ne_zero raw
  · rw [hdrop]
    rfl

/-- Settles O31: what the construction strips is a run of zeros, and its result is bounded where it is stored. -/
theorem polyNewStripsAndShifts : Obligations.PolyNewStripsAndShifts := by
  unfold Obligations.PolyNewStripsAndShifts
  intro pd shift
  refine ⟨by simp [encode, packFields_eq_commandWord], fun s hf => ?_⟩
  obtain ⟨off, hle, htake, hhead, hpoly⟩ := exists_drop_append_eq_poly (s.stg.readSeq s.stgLen)
  exact ⟨off, hle, htake, hhead,
    exec_of_storePoly (by simp) rfl hf (congrArg (storePoly pd · s) (hpoly shift.toNat).symm)⟩

/-! ## `POLY.MUL` -/

theorem bodyPolyMul_ok {pd pa pb : PReg} {s : State} {c : Poly} (h : pmul (s.readP pa) (s.readP pb) = .ok c) :
    bodyPolyMul pd pa pb s = storePoly pd c s := by
  rw [bodyPolyMul, h]
  rfl

theorem bodyPolyMul_error {pd pa pb : PReg} {s : State} {e : Raise}
    (h : pmul (s.readP pa) (s.readP pb) = .error e) : bodyPolyMul pd pa pb s = raise s e.cause e.info := by
  rw [bodyPolyMul, h]
  rfl

/-- Settles O32: `pmul` adds the rows of the product, and raises on an empty operand or at a zero coefficient; the
length is checked where the product is stored. -/
theorem polyMulIsTheProduct : Obligations.PolyMulIsTheProduct := by
  unfold Obligations.PolyMulIsTheProduct
  intro pd pa pb
  refine ⟨by simp [encode, packFields_eq_commandWord], fun s hf => ?_⟩
  refine ⟨fun h => exec_of_raise (by simp) rfl hf (bodyPolyMul_error (pmul_empty h)),
    fun ha hb h0 => exec_of_raise (by simp) rfl hf (bodyPolyMul_error (pmul_zero ha hb h0)), fun ha hb ha0 hb0 => ?_⟩
  rw [← polyMul_length]
  exact exec_of_storePoly (by simp) rfl hf (bodyPolyMul_ok (pmul_ok ha hb ha0 hb0))

/-! ## `POLY.MOD` -/

/-- `POLY.MOD` stores the answer of `pmod`. -/
theorem exec_polyMod_of_ok {pd pa pb : PReg} {s : State} {c : Poly} (hf : s.fault = false)
    (h : pmod (s.readP pa) (s.readP pb) = .ok c) :
    exec (.polyMod pd pa pb) s = .next { s with p := s.p.set pd c } :=
  exec_of_ok (by simp) hf (by rw [bodyOf, bodyPolyMod, h]; rfl)

/-- `POLY.MOD` takes the fault that `pmod` raises. -/
theorem exec_polyMod_of_error {pd pa pb : PReg} {s : State} {c : Cause} {info : Int} (hf : s.fault = false)
    (h : pmod (s.readP pa) (s.readP pb) = .error ⟨c, info⟩) :
    exec (.polyMod pd pa pb) s = .next (faulted (encode (.polyMod pd pa pb)) c info s) :=
  exec_of_raise (by simp) rfl hf (by rw [bodyOf, bodyPolyMod, h]; rfl)

/-- Settles O33: every pass of `pmod` takes a multiple of the divisor off the dividend, and raises at a zero
coefficient; only the first dividend can have a leading one. -/
theorem polyModIsTheRemainder : Obligations.PolyModIsTheRemainder := by
  unfold Obligations.PolyModIsTheRemainder
  intro pd pa pb
  refine ⟨by simp [encode, packFields_eq_commandWord], fun s hf => ⟨fun he => ?_, fun hl => ?_, fun he hl h0 => ?_,
    fun he hl ha he0 => ?_⟩⟩
  · exact exec_polyMod_of_error hf (he ▸ pmod_empty _)
  · exact exec_polyMod_of_ok hf (pmod_of_length_lt hl)
  · exact exec_polyMod_of_error hf (pmod_zero he hl h0)
  · obtain ⟨r, q, hr, hhead, hq, heq⟩ := pmod_ok he he0 hl ha
    exact ⟨r, q, exec_polyMod_of_ok hf hr, pmod_length_lt hr, hhead, hq, heq⟩

/-! ## Reads of one value -/

theorem bodyPolyGet_ok {rd : XReg} {pa : PReg} {rb : XReg} {s : State} {c : Byte} (h0 : 0 ≤ s.readX rb)
    (hc : (s.readP pa)[(s.readX rb).toNat]? = some c) : bodyPolyGet rd pa rb s = .ok (s.writeX rd c.toNat) := by
  obtain ⟨hlt, -⟩ := List.getElem?_eq_some_iff.mp hc
  rw [bodyPolyGet, if_neg (by omega), List.getD_eq_getElem?_getD, hc, Option.getD_some]

theorem bodyBbGet_ok {rd ra : XReg} {s : State} {bit : Bool} (h0 : 0 ≤ s.readX ra)
    (hbit : (bits s.bb)[(s.readX ra).toNat]? = some bit) : bodyBbGet rd ra s = .ok (s.writeX rd (boolValue bit)) := by
  obtain ⟨hlt, hget⟩ := List.getElem?_eq_some_iff.mp hbit
  rw [bits_length] at hlt
  have hbb : s.bb.get (s.readX ra).toNat = bit := by simpa [bits] using hget
  rw [bodyBbGet, if_neg (by omega), hbb]

theorem writeX_boolValue (s : State) (r : XReg) (bit : Bool) :
    s.writeX r (boolValue bit) = { s with x := s.x.set r (if bit then 1 else 0) } := by
  cases bit <;> rfl

/-- Settles O34: inside the length the indexed value is written, outside it the index is the fault's. -/
theorem polyAndBitReadsAnswerTheIndexedValue : Obligations.PolyAndBitReadsAnswerTheIndexedValue := by
  unfold Obligations.PolyAndBitReadsAnswerTheIndexedValue
  refine ⟨fun rd pa => ⟨by simp [encode, packFields_eq_commandWord], fun s hf => ?_⟩,
    fun rd pa rb => ⟨by simp [encode, packFields_eq_commandWord], fun s hf => ⟨fun c h0 hc => ?_, fun hk => ?_⟩⟩,
    fun rd ra => ⟨packFields_xBits_xBits 0x33 rd ra, fun s hf => ⟨fun bit h0 hbit => ?_, fun hk => ?_⟩⟩⟩
  · rw [← writeX_natCast]
    exact exec_of_ok (by simp) hf rfl
  · rw [← writeX_natCast]
    exact exec_of_ok (by simp) hf (bodyPolyGet_ok h0 hc)
  · exact exec_of_raise (by simp) rfl hf (if_pos hk)
  · rw [← writeX_boolValue]
    exact exec_of_ok (by simp) hf (bodyBbGet_ok h0 hbit)
  · exact exec_of_raise (by simp) rfl hf (if_pos hk)

end Sys2Proof.Machine
end

section
/-! SUPPORT. The commands that write the bit buffer from a register or from the segment, and those that read a count
(rules R141, R142, R146 to R148, R153, R154, R286): what they append, in the terms of the bits of the buffer. -/

namespace Sys2Proof.Machine

open Sys2Proof.Reference

/-- A command that ends with a count in its destination register. -/
theorem exec_of_count {i : Instr} {rd : XReg} {k : Nat} {s : State} (hi : i ≠ .reset) (hf : s.fault = false)
    (h : bodyOf i s = .ok (s.writeX rd k)) :
    exec i s = .next { s with x := s.x.set rd (BitVec.ofNat 32 k) } := by
  rw [← writeX_natCast]
  exact exec_of_ok hi hf h

/-- Settles O35: an empty buffer replaces the buffer, and the counts are stored as they are. -/
theorem clearAndCountCommandsDoAsNamed : Obligations.ClearAndCountCommandsDoAsNamed := by
  unfold Obligations.ClearAndCountCommandsDoAsNamed
  exact ⟨⟨by decide, fun s hf => exec_of_ok nofun hf rfl⟩, fun rd =>
    ⟨⟨by simp [encode, packFields_eq_commandWord], fun s hf => exec_of_count (by simp) hf rfl⟩,
      ⟨by simp [encode, packFields_eq_commandWord], fun s hf => exec_of_count (by simp) hf rfl⟩⟩⟩

/-- A command that ends with bits appended to a well-formed buffer. -/
theorem exec_of_append {i : Instr} {s : State} {l : List Bool} (hi : i ≠ .reset) (hf : s.fault = false)
    (hb : s.bb.wellFormed) (h : bodyOf i s = .ok (s.withBb (s.bb.pushAll l))) :
    ∃ b : BitBuffer, exec i s = .next { s with bb := b, dcValid := false } ∧ b.wellFormed ∧
      bits b = bits s.bb ++ l := by
  obtain ⟨hwf, -, hbits⟩ := BitBuffer.pushAll_spec hb l
  exact ⟨s.bb.pushAll l, exec_of_ok hi hf h, hwf, hbits⟩

theorem toInt_bne_zero (w : Word) : (w.toInt != 0) = (w != 0) := by
  rw [Bool.eq_iff_iff, bne_iff_ne, bne_iff_ne, ← BitVec.toInt_zero, BitVec.toInt_inj.ne]
  rfl

/-- Settles O36: the two commands append, or raise before a bit is written. -/
theorem bitsAreAppendedInOrder : Obligations.BitsAreAppendedInOrder := by
  unfold Obligations.BitsAreAppendedInOrder
  have hmax : Config.bbMaxBytes = 12294 := rfl
  refine ⟨fun ra rb => ⟨by simp [encode, packFields_eq_commandWord], fun s hf hb => ?_⟩,
    fun ra => ⟨by simp [encode, packFields_eq_commandWord], fun s hf hb => ?_⟩⟩
  · obtain ⟨hn, hbody⟩ | ⟨h0, h32, hfull, hbody⟩ | ⟨h0, h32, hfits, hbody⟩ := bodyBbPut_cases ra rb s
    · exact ⟨fun _ => exec_of_raise nofun rfl hf hbody, fun _ _ => by omega, fun _ _ => by omega⟩
    · exact ⟨fun _ => by omega, fun _ _ _ => exec_of_raise nofun rfl hf hbody, fun _ _ _ => by omega⟩
    · exact ⟨fun _ => by omega, fun _ _ _ => by omega, fun _ _ _ => exec_of_append nofun hf hb hbody⟩
  · obtain ⟨hfits, hbody⟩ | ⟨hfull, hbody⟩ := bodyBbPutbit_cases ra s
    · refine ⟨fun _ => by omega, fun _ => exec_of_append nofun hf hb ?_⟩
      rw [← toInt_bne_zero]
      exact hbody
    · exact ⟨fun _ => exec_of_raise nofun rfl hf hbody, fun _ => by omega⟩

/-- Settles O39: the segment is appended, or it is refused before a bit is written. -/
theorem segWriteAppendsTheSegment : Obligations.SegWriteAppendsTheSegment := by
  unfold Obligations.SegWriteAppendsTheSegment
  have hmax : Config.bbMaxBytes = 12294 := rfl
  refine ⟨by decide, fun s hf hb => ?_⟩
  obtain ⟨hfits, hbody⟩ | ⟨hfull, hbody⟩ := bodySegWrite_cases s
  · exact ⟨fun _ => by omega, fun _ => exec_of_append nofun hf hb hbody⟩
  · exact ⟨fun _ => exec_of_raise (i := .segWrite) nofun rfl hf hbody, fun _ => by omega⟩

end Sys2Proof.Machine
end

section
/-! SUPPORT. The segment of a text (rules R150 to R152, R155): the bytes of a code unit by division, the mark by the
code units that it stands for, and the two commands that encode. -/

namespace Sys2Proof.Machine

open Sys2Proof.Reference

/-! ## A code unit (rule R150) -/

/-- Bits under a lead whose low `k` bits are free are added to it. -/
theorem leadByte_toNat {k lead bits : Nat} (hb : bits < 2 ^ k) (hl : lead * 2 ^ k + bits < 256) :
    (leadByte (lead * 2 ^ k) bits).toNat = lead * 2 ^ k + bits := by
  rw [leadByte, ← Nat.shiftLeft_eq, ← Nat.shiftLeft_add_eq_or_of_lt hb, Nat.shiftLeft_eq, BitVec.toNat_ofNat,
    Nat.mod_eq_of_lt hl]

theorem continuationByte_toNat (c : Nat) : (continuationByte c).toNat = 128 + c % 64 := by
  have hmod : c &&& 0x3F = c % 64 := Nat.and_two_pow_sub_one_eq_mod c 6
  have hlt := Nat.mod_lt c (show 0 < 64 by omega)
  rw [continuationByte, hmod]
  exact leadByte_toNat (k := 6) (lead := 2) hlt (by omega)

/-- The bytes of a code unit are the reference description's. -/
theorem map_toNat_unitBytes {c : Nat} (hc : c < 65536) :
    (unitBytes c).map BitVec.toNat = Reference.unitBytes c := by
  unfold unitBytes Reference.unitBytes
  split
  next =>
    have hlt : c < 256 := by omega
    simp [Nat.mod_eq_of_lt hlt]
  next =>
    split
    next =>
      have hlead : (leadByte 0xC0 (c / 64)).toNat = 192 + c / 64 :=
        leadByte_toNat (k := 5) (lead := 6) (by omega) (by omega)
      simp [hlead, continuationByte_toNat, Nat.shiftRight_eq_div_pow]
    next =>
      have hlead : (leadByte 0xE0 (c / 4096)).toNat = 224 + c / 4096 :=
        leadByte_toNat (k := 4) (lead := 14) (by omega) (by omega)
      simp [hlead, continuationByte_toNat, Nat.shiftRight_eq_div_pow]

/-- A code unit is one byte if it is below 128, and never more than three. -/
theorem unitBytes_length_cases (c : CodeUnit) :
    (c.toNat < 128 ∧ (unitBytes c.toNat).length = 1) ∨
    (128 ≤ c.toNat ∧ 2 ≤ (unitBytes c.toNat).length ∧ (unitBytes c.toNat).length ≤ 3) := by
  have hlt : c.toNat < 65536 := c.isLt
  unfold unitBytes
  split_ifs <;> simp <;> omega

/-! ## A text (rule R151) -/

/-- The bytes of a text before its mark. -/
def textBytes (units : List CodeUnit) : List Byte := units.flatMap fun c => unitBytes c.toNat

theorem segEnc_eq (units : List CodeUnit) :
    segEnc units = if (textBytes units).length ≠ units.length then bom ++ textBytes units else textBytes units := rfl

theorem textBytes_cons (c : CodeUnit) (units : List CodeUnit) :
    textBytes (c :: units) = unitBytes c.toNat ++ textBytes units := rfl

/-- A text has from one to three bytes a code unit, and more than one where some code unit is 128 or above. -/
theorem textBytes_length (units : List CodeUnit) :
    units.length ≤ (textBytes units).length ∧ (textBytes units).length ≤ 3 * units.length ∧
      ((textBytes units).length ≠ units.length ↔ ∃ c ∈ units, 128 ≤ c.toNat) := by
  induction units with
  | nil => simp [textBytes]
  | cons c units ih =>
    obtain ⟨hge, hle, hiff⟩ := ih
    simp only [textBytes_cons, List.length_append, List.length_cons, List.exists_mem_cons_iff, ← hiff]
    have := unitBytes_length_cases c
    omega

theorem segEnc_length_le (units : List CodeUnit) : (segEnc units).length ≤ 3 * units.length + 3 := by
  obtain ⟨-, hle, -⟩ := textBytes_length units
  have hbom : bom.length = 3 := rfl
  rw [segEnc_eq]
  split
  · rw [List.length_append]
    omega
  · omega

theorem map_toNat_textBytes (units : List CodeUnit) :
    (textBytes units).map BitVec.toNat = units.flatMap fun c => Reference.unitBytes c.toNat := by
  rw [textBytes, List.map_flatMap]
  exact List.flatMap_congr fun c _ => map_toNat_unitBytes c.isLt

/-- The segment of a text is the reference description's. -/
theorem map_toNat_segEnc (units : List CodeUnit) : (segEnc units).map BitVec.toNat = segmentOf units := by
  obtain ⟨-, -, hmark⟩ := textBytes_length units
  rw [segEnc_eq, segmentOf, ← map_toNat_textBytes]
  simp only [hmark, List.any_eq_true, decide_eq_true_eq]
  split
  · exact List.map_append
  · rfl

theorem segmentOf_length (units : List CodeUnit) : (segmentOf units).length = (segEnc units).length := by
  rw [← map_toNat_segEnc, List.length_map]

theorem unitLengths_eq (units : List CodeUnit) : unitLengths units = (textBytes units).length := by
  induction units with
  | nil => rfl
  | cons c units ih => rw [unitLengths, ih, textBytes_cons, List.length_append]

/-- `UTF8.LEN` counts what `SEG.ENC` stores (rule R155). -/
theorem utf8Length_eq (units : List CodeUnit) : utf8Length units = (segEnc units).length := by
  rw [utf8Length, unitLengths_eq, segEnc_eq]
  split
  · rw [List.length_append, Nat.add_comm]
    rfl
  · rfl

/-! ## The commands -/

theorem text_length (s : State) : s.text.length = s.txtLen := Memory.readSeq_length _ _

/-- Settles O37: a text of TXT_MAX code units still fits SEG, so the segment is stored, element by element. -/
theorem segEncStoresTheEncodedText : Obligations.SegEncStoresTheEncodedText := by
  unfold Obligations.SegEncStoresTheEncodedText
  refine ⟨by decide, fun s hf hbounded hcanonical => ?_⟩
  obtain ⟨-, htxt, -⟩ := hbounded
  obtain ⟨-, -, hseg, -⟩ := hcanonical
  have hfits : (segEnc s.text).length ≤ Config.segMax := calc
    _ ≤ 3 * s.txtLen + 3 := text_length s ▸ segEnc_length_le s.text
    _ ≤ 3 * Config.txtMax + 3 := by omega
    _ = Config.segMax := rfl
  have hbytes : segmentOf ((List.range s.txtLen).map s.txt.read) = (segEnc s.text).map BitVec.toNat :=
    (map_toNat_segEnc s.text).symm
  rw [hbytes]
  refine ⟨s.seg.writeSeq 0 (segEnc s.text), exec_of_ok nofun hf ?_, Memory.writeSeq_wf hseg, fun k => ?_⟩
  · rw [List.length_map]
    exact if_neg (Nat.not_lt.mpr hfits)
  · rw [Memory.read_writeSeq hseg, if_pos (Nat.zero_le k), Nat.sub_zero, List.getD_eq_getElem?_getD, List.getElem?_map]
    cases (segEnc s.text)[k]? <;> simp

/-- Settles O38: the count is the length of the segment, and nothing but the register is written. -/
theorem utf8LenIsTheSegmentLength : Obligations.Utf8LenIsTheSegmentLength := by
  unfold Obligations.Utf8LenIsTheSegmentLength
  refine fun rd => ⟨by simp [encode, packFields_eq_commandWord], fun s hf => ?_⟩
  rw [segmentOf_length]
  refine exec_of_count (by simp) hf ?_
  rw [bodyOf, utf8Length_eq]
  rfl

end Sys2Proof.Machine
end

section
/-! SUPPORT. The data codewords (rules R156 to R160): the bits that `DATA.SEG` and `DATA.FIN` append where they fit, and
the faults that come before. -/

namespace Sys2Proof.Machine

open Sys2Proof.Reference

/-! ## One segment (rules R156 to R158) -/

theorem versionInRange_iff (version : Nat) : versionInRange version = true ↔ 1 ≤ version ∧ version ≤ 40 := by
  simp [versionInRange]

theorem mem_versions {version : Nat} (hv : 1 ≤ version ∧ version ≤ 40) : version ∈ List.range' 1 40 :=
  List.mem_range'_1.mpr (by omega)

theorem lengthBits_eq {version : Nat} (hv : 1 ≤ version ∧ version ≤ 40) :
    lengthBits rom version = lengthFieldWidth version := by
  have h : ∀ v ∈ List.range' 1 40, lengthBits rom v = lengthFieldWidth v := by decide
  exact h version (mem_versions hv)

theorem mode_msbBits : msbBits rom.modeByte 4 = [false, true, false, false] := by decide

/-- Mode, length and payload are appended where they fit. -/
theorem putSegment_ok {version : Nat} {segment : List Byte} {b : BitBuffer} (hv : 1 ≤ version ∧ version ≤ 40)
    (h : b.len + (4 + lengthFieldWidth version + 8 * segment.length) ≤ 8 * Config.bbMaxBytes) :
    putSegment rom version segment b = .ok (b.pushAll ([false, true, false, false] ++
      msbBits segment.length (lengthFieldWidth version) ++ byteBits segment)) := by
  rw [putSegment, lengthBits_eq hv, put_ok (by omega), ok_bind,
    put_ok (by rw [BitBuffer.pushAll_len, msbBits_length]; omega), ok_bind,
    putBytes_ok (by rw [BitBuffer.pushAll_len, BitBuffer.pushAll_len, msbBits_length, msbBits_length]; omega),
    mode_msbBits, BitBuffer.pushAll_append, BitBuffer.pushAll_append]

/-- `DATA.SEG` appends a segment, or raises before it writes (rule R158). -/
theorem bodyDataSeg_cases (s : State) :
    (¬ versionLegal s ∧ bodyDataSeg rom s = raise s .tableEntryMissing (missingIndex s)) ∨
    (versionLegal s ∧ 8 * Config.bbMaxBytes < s.bb.len + segmentBits s ∧
      bodyDataSeg rom s = raise s .bufferLimit (s.bb.len + segmentBits s : Nat)) ∨
    (versionLegal s ∧ s.bb.len + segmentBits s ≤ 8 * Config.bbMaxBytes ∧
      bodyDataSeg rom s = .ok (s.withBb (s.bb.pushAll ([false, true, false, false] ++
        msbBits s.segLen (lengthFieldWidth s.version.toNat) ++ byteBits s.segment)))) := by
  unfold bodyDataSeg
  by_cases hv : versionLegal s
  · have hneed : 4 + lengthBits rom s.version.toNat + 8 * s.segLen = segmentBits s := by
      rw [lengthBits_eq hv, segmentBits]
    simp only [(versionInRange_iff _).mpr hv, Bool.not_true, Bool.false_eq_true, if_false, hneed]
    by_cases hfits : s.bb.len + segmentBits s ≤ 8 * Config.bbMaxBytes
    · refine .inr (.inr ⟨hv, hfits, ?_⟩)
      have hlen : s.segment.length = s.segLen := Memory.readSeq_length _ _
      rw [(fits_iff _ _).mpr hfits, putSegment_ok hv (by rw [hlen]; exact hfits), hlen]
      rfl
    · refine .inr (.inl ⟨hv, by omega, ?_⟩)
      rw [Bool.eq_false_iff.mpr (mt (fits_iff _ _).mp hfits)]
      rfl
  · exact .inl ⟨hv, if_pos (by rw [Bool.eq_false_iff.mpr (mt (versionInRange_iff _).mp hv)]; rfl)⟩

/-- Settles O40: what fits is appended, and the two faults come before a bit is written; a version outside the tables
leaves the buffer free. -/
theorem dataSegAppendsHeaderAndPayload : Obligations.DataSegAppendsHeaderAndPayload := by
  unfold Obligations.DataSegAppendsHeaderAndPayload
  have hmax : Config.bbMaxBytes = 12294 := rfl
  refine ⟨by decide, fun s hf hb => ?_⟩
  obtain ⟨hv, hbody⟩ | ⟨hv, hfull, hbody⟩ | ⟨hv, hfits, hbody⟩ := bodyDataSeg_cases s
  · exact ⟨fun _ => ⟨_, _, exec_of_error (i := .dataSeg) nofun hf hbody⟩, fun h => absurd h hv,
      fun h => absurd h hv⟩
  · exact ⟨fun h => absurd hv h, fun _ _ => exec_of_error (i := .dataSeg) nofun hf hbody, fun _ _ => by omega⟩
  · refine ⟨fun h => absurd hv h, fun _ _ => by omega, fun _ _ => ?_⟩
    obtain ⟨b, hexec, hwf, hbits⟩ := exec_of_append (i := .dataSeg) nofun hf hb hbody
    exact ⟨b, hexec, hwf, by simpa [State.segment, Memory.readSeq] using hbits⟩

/-! ## The end of the data (rules R159, R160) -/

/-- At most 7 zero bits to the byte boundary. -/
theorem padToByte_ok {rounds : Nat} {b : BitBuffer} (h : 8 * ((b.len + 7) / 8) - b.len ≤ rounds) :
    padToByte rounds b = .ok (b.pushAll (List.replicate (8 * ((b.len + 7) / 8) - b.len) false)) := by
  induction rounds generalizing b with
  | zero =>
    rw [Nat.le_zero.mp h]
    rfl
  | succ rounds ih =>
    unfold padToByte
    split
    next hmod =>
      have hcount : 8 * ((b.len + 7) / 8) - b.len = 8 * (((b.push false).len + 7) / 8) - (b.push false).len + 1 := by
        rw [BitBuffer.push_len]
        omega
      obtain ⟨-, hp⟩ | ⟨-, h0, -⟩ := putBit_cases b false
      · rw [hp, ok_bind, ih (by omega), hcount]
        rfl
      · exact absurd h0 hmod
    next hmod =>
      rw [show 8 * ((b.len + 7) / 8) - b.len = 0 by omega]
      rfl

/-- `n` bytes, two alternating. -/
def alternating (now next : Byte) (n : Nat) : List Byte := (List.range n).map fun k => if k % 2 = 0 then now else next

theorem alternating_succ (now next : Byte) (n : Nat) :
    alternating now next (n + 1) = now :: alternating next now n := by
  rw [alternating, List.range_succ_eq_map, List.map_cons, List.map_map]
  refine congrArg (now :: ·) (List.map_congr_left fun k _ => ?_)
  rcases Nat.mod_two_eq_zero_or_one k with h | h <;> simp [h, Nat.add_mod]

theorem alternating_length (now next : Byte) (n : Nat) : (alternating now next n).length = n := by simp [alternating]

/-- Bytes are appended up to the end. -/
theorem padBytes_ok {bits n rounds : Nat} {now next : Byte} {b : BitBuffer} (hb : b.len + 8 * n = bits)
    (hn : n ≤ rounds) (hmax : bits ≤ 8 * Config.bbMaxBytes) :
    padBytes bits rounds now next b = .ok (b.pushAll (byteBits (alternating now next n))) := by
  induction rounds generalizing n now next b with
  | zero =>
    rw [Nat.le_zero.mp hn]
    rfl
  | succ rounds ih =>
    unfold padBytes
    cases n with
    | zero =>
      rw [if_pos (by omega)]
      rfl
    | succ n =>
      rw [if_neg (by omega), put_ok (by omega), ok_bind,
        ih (n := n) (by rw [BitBuffer.pushAll_len, msbBits_length]; omega) (by omega), alternating_succ, byteBits_cons,
        BitBuffer.pushAll_append]

/-- The length of a stream of `len` bits with its terminator, for `t` data codewords. -/
def endedLength (t len : Nat) : Nat := if len + 4 ≤ 8 * t then len + 4 else len

/-- What `DATA.FIN` appends to a stream of `len` bits, for `t` data codewords: zero bits to the end of a byte, and the
padding bytes. -/
def finishBits (t len : Nat) : List Bool :=
  let full := (endedLength t len + 7) / 8
  List.replicate (8 * full - len) false ++ byteBits (alternating padFirst padSecond (t - full))

/-- The loops of `DATA.FIN`, for a stream with its terminator. -/
theorem padToByte_padBytes_ok {t : Nat} {b : BitBuffer} (h : b.len ≤ 8 * t) (ht : t ≤ Config.bbMaxBytes) :
    (padToByte 7 b >>= padBytes (t * 8) t padFirst padSecond) =
      .ok (b.pushAll (List.replicate (8 * ((b.len + 7) / 8) - b.len) false ++
        byteBits (alternating padFirst padSecond (t - (b.len + 7) / 8)))) := by
  rw [padToByte_ok (by omega), ok_bind, BitBuffer.pushAll_append]
  exact padBytes_ok (by rw [BitBuffer.pushAll_len, List.length_replicate]; omega) (by omega) (by omega)

theorem msbBits_zero (n : Nat) : msbBits 0 n = List.replicate n false := by simp [msbBits, List.map_const']

/-- `data_finish` appends the end of a stream that is not too long (rule R159). -/
theorem dataFinish_ok {t : Nat} {b : BitBuffer} (h : b.len ≤ 8 * t) (ht : t ≤ Config.bbMaxBytes) :
    dataFinish t b = .ok (b.pushAll (finishBits t b.len)) := by
  rw [dataFinish, if_neg (by omega), finishBits, endedLength]
  by_cases hterm : b.len + 4 ≤ 8 * t
  · have hzeros (m : Nat) : b.len + 4 ≤ m → 4 + (m - (b.len + 4)) = m - b.len := by omega
    have hlen : (b.pushAll (msbBits 0 4)).len = b.len + 4 := by rw [BitBuffer.pushAll_len, msbBits_length]
    simp only [if_pos (show b.len + 4 ≤ t * 8 by omega), if_pos hterm]
    rw [put_ok (by omega), ok_bind]
    refine (padToByte_padBytes_ok (hlen.trans_le hterm) ht).trans ?_
    rw [hlen, ← BitBuffer.pushAll_append, msbBits_zero, ← List.append_assoc, List.replicate_append_replicate,
      hzeros _ (by omega)]
  · simp only [if_neg (show ¬ b.len + 4 ≤ t * 8 by omega), if_neg hterm]
    exact padToByte_padBytes_ok h ht

theorem finishBits_length {t len : Nat} (h : len ≤ 8 * t) : len + (finishBits t len).length = 8 * t := by
  have hended : len ≤ endedLength t len ∧ endedLength t len ≤ 8 * t := by
    unfold endedLength
    split <;> omega
  rw [finishBits, List.length_append, List.length_replicate, byteBits_length, alternating_length]
  omega

/-- The data codewords of rule R24's table fit the bit buffer. -/
theorem dataTotal_le {version level : Nat} (hv : 1 ≤ version ∧ version ≤ 40) (hl : level < 4) :
    dataTotal version level ≤ Config.bbMaxBytes := by
  have h : ∀ v ∈ List.range' 1 40, ∀ l < 4, dataTotal v l ≤ Config.bbMaxBytes := by decide +kernel
  exact h version (mem_versions hv) level hl

/-- Outside the tables `DATA.FIN` raises (rule R160). -/
theorem bodyDataFin_outside {s : State} (hv : ¬ versionLegal s) :
    bodyDataFin rom s = raise s .tableEntryMissing (missingIndex s) := by
  rw [bodyDataFin, State.blocks, getRSBlocks_outside _ hv]
  rfl

/-- Inside the tables `DATA.FIN` finishes the stream for the data codewords in force (rule R160). -/
theorem bodyDataFin_inside {s : State} (hv : versionLegal s) :
    bodyDataFin rom s = (liftRaise s (dataFinish (dataWords s) s.bb) >>= fun b => .ok (s.withBb b)) := by
  have hblocks := getRSBlocks_inside hv s.level.isLt
  rw [bodyDataFin, State.blocks, dataWords, dataTotal, blocksOf, hblocks]
  rfl

/-- Settles O41: up to the data codewords the end of the stream is appended; the two faults leave the buffer free. -/
theorem dataFinPadsToTheDataCapacity : Obligations.DataFinPadsToTheDataCapacity := by
  unfold Obligations.DataFinPadsToTheDataCapacity
  refine ⟨by decide, fun s hf hb => ⟨fun hv => ?_, fun hv hlen => ?_, fun hv hlen => ?_⟩⟩
  · exact ⟨_, _, exec_of_error (i := .dataFin) nofun hf (bodyDataFin_outside hv)⟩
  · refine ⟨_, _, exec_of_error (i := .dataFin) (e := ⟨.dataOverflow, s.bb.len, s⟩) nofun hf ?_⟩
    rw [bodyOf, bodyDataFin_inside hv, dataFinish, if_pos (by omega)]
    rfl
  · have hbody : bodyOf .dataFin s = .ok (s.withBb (s.bb.pushAll (finishBits (dataWords s) s.bb.len))) := by
      rw [bodyOf, bodyDataFin_inside hv, dataFinish_ok hlen (dataTotal_le hv s.level.isLt)]
      rfl
    obtain ⟨b, hexec, hwf, hbits⟩ := exec_of_append (i := .dataFin) nofun hf hb hbody
    refine ⟨b, hexec, hwf, ?_, hbits.trans (List.append_assoc _ _ _).symm⟩
    rw [← bits_length b, hbits, List.length_append, bits_length, finishBits_length hlen]

end Sys2Proof.Machine
end

section
/-! SUPPORT. The selection of a version (rules R161 to R163): what the capacity table says, checked over all of it, and
that the walk through it answers the first version that fits. -/

namespace Sys2Proof.Machine

open Sys2Proof.Reference

/-! ## The capacity table (rules R26, R161, R163) -/

/-- The capacity of version 40 is the largest. -/
theorem capacity_le_capacity_40 {version level : Nat} (hv : 1 ≤ version ∧ version ≤ 40) (hl : level < 4) :
    capacity version level ≤ capacity 40 level := by
  have h : ∀ v ∈ List.range' 1 40, ∀ l < 4, capacity v l ≤ capacity 40 l := by decide +kernel
  exact h version (mem_versions hv) level hl

/-- A stricter level holds no more (rule R163). -/
theorem capacity_succ_le {version level : Nat} (hv : 1 ≤ version ∧ version ≤ 40) (hl : level < 3) :
    capacity version (level + 1) ≤ capacity version level := by
  have h : ∀ v ∈ List.range' 1 40, ∀ l < 3, capacity v (l + 1) ≤ capacity v l := by decide +kernel
  exact h version (mem_versions hv) level hl

/-- Settles O43: the printed cells agree, and a version that holds the length at a level holds it at the level before,
so it is not below the smallest there. -/
theorem capacityAgreesWithTheBlockTable : Obligations.CapacityAgreesWithTheBlockTable := by
  unfold Obligations.CapacityAgreesWithTheBlockTable
  refine ⟨by decide +kernel, fun n l u v hl hu hv => ?_⟩
  obtain ⟨-, -, -, hbelow⟩ := hu
  obtain ⟨h1, h40, hfits, -⟩ := hv
  by_contra hlt
  have hshort := hbelow v h1 (by omega)
  have hle := capacity_succ_le ⟨h1, h40⟩ hl
  omega

/-! ## The walk (rule R162) -/

theorem selectVersion_negative {level : Nat} {n : Int} (h : n < 0) :
    selectVersion rom level n = .error ⟨.operandRange, n⟩ := if_pos h

/-- The walk answers the smallest version, where there is one. -/
theorem selectVersion_ok {level : Nat} {n : Int} (h0 : 0 ≤ n) (h : n ≤ capacity 40 level) :
    ∃ v, smallestVersion level n v ∧ selectVersion rom level n = .ok v := by
  rw [selectVersion, if_neg (by omega)]
  cases hfind : (List.range' 1 40).find? fun v => decide (n ≤ capacityOf rom v level) with
  | none => exact absurd (decide_eq_true h) (List.find?_eq_none.mp hfind 40 (by decide))
  | some v =>
    obtain ⟨hfits, hmem, hbelow⟩ := List.find?_range'_eq_some.mp hfind
    obtain ⟨h1, h41⟩ := List.mem_range'_1.mp hmem
    exact ⟨v, ⟨h1, by omega, of_decide_eq_true hfits, fun u hu1 huv =>
      Int.not_le.mp (of_decide_eq_false ((Bool.not_eq_true' _).mp (hbelow u hu1 huv)))⟩, rfl⟩

/-- The walk ends without an answer where version 40 is too small. -/
theorem selectVersion_too_long {level : Nat} {n : Int} (hl : level < 4) (h : (capacity 40 level : Int) < n) :
    selectVersion rom level n = .error ⟨.tooLongData, n⟩ := by
  have hnone : (List.range' 1 40).find? (fun v => decide (n ≤ capacityOf rom v level)) = none := by
    refine List.find?_eq_none.mpr fun v hv => ?_
    obtain ⟨h1, h41⟩ := List.mem_range'_1.mp hv
    have hle : capacityOf rom v level ≤ capacity 40 level := capacity_le_capacity_40 ⟨h1, by omega⟩ hl
    rw [decide_eq_true_iff]
    omega
  rw [selectVersion, if_neg (by omega), hnone]

/-- Settles O42: the walk answers the first version that holds the length, and the two faults are those of a length
that no version holds. -/
theorem verSelGivesTheSmallestVersion : Obligations.VerSelGivesTheSmallestVersion := by
  unfold Obligations.VerSelGivesTheSmallestVersion
  intro rd ra
  have hbody {s : State} {e : Raise} (h : selectVersion rom s.level.toNat (s.readX ra) = .error e) :
      bodyOf (.verSel rd ra) s = raise s e.cause e.info := by
    rw [bodyOf, bodyVerSel, h]
    rfl
  refine ⟨packFields_xBits_xBits 0x3A rd ra, fun s hf => ⟨fun hneg => ?_, fun h0 hle => ?_, fun hgt => ?_⟩⟩
  · exact exec_of_raise nofun rfl hf (hbody (selectVersion_negative hneg))
  · obtain ⟨v, hsmallest, hselect⟩ := selectVersion_ok h0 hle
    refine ⟨v, hsmallest, ?_⟩
    refine exec_of_count (by simp) hf ?_
    rw [bodyOf, bodyVerSel, State.readX, hselect]
    rfl
  · exact exec_of_raise nofun rfl hf (hbody (selectVersion_too_long s.level.isLt hgt))

end Sys2Proof.Machine
end

section
/-! SUPPORT. The value of a polynomial at a power of 2 (rules R12, R104, R182): it is linear, it is multiplicative, and
leading zeros do not count, so a remainder has the dividend's value wherever the divisor has a root. -/

namespace Sys2Proof.Machine

open Sys2Proof.Reference

theorem polyEval_nil (x : Byte) : polyEval [] x = 0 := rfl

theorem fieldMul_one_right (a : Byte) : fieldMul a 1 = a := by rw [fieldMul_comm, fieldMul_one_left]

/-- Horner's rule from a start value: it counts as one more leading coefficient. -/
theorem foldl_horner (l : Poly) (acc : Byte) (i : Nat) :
    l.foldl (fun acc a => fieldMul acc (pow2 i) ^^^ a) acc =
      fieldMul acc (pow2 (i * l.length)) ^^^ polyEval l (pow2 i) := by
  have hcons (c a : Byte) (l : Poly) :
      (a :: l).foldl (fun acc a => fieldMul acc (pow2 i) ^^^ a) c =
        l.foldl (fun acc a => fieldMul acc (pow2 i) ^^^ a) (fieldMul c (pow2 i) ^^^ a) := rfl
  induction l generalizing acc with
  | nil => exact (fieldMul_one_right acc).symm.trans BitVec.xor_zero.symm
  | cons a l ih =>
    rw [polyEval, hcons, hcons, ih, ih (fieldMul 0 (pow2 i) ^^^ a), fieldMul_zero_left,
      show (0 : Byte) ^^^ a = a from BitVec.zero_xor, fieldMul_xor_left, fieldMul_assoc, fieldMul_pow2_pow2,
      List.length_cons, Nat.mul_succ, Nat.add_comm i, BitVec.xor_assoc]

theorem polyEval_append (a b : Poly) (i : Nat) : polyEval (a ++ b) (pow2 i) =
    fieldMul (polyEval a (pow2 i)) (pow2 (i * b.length)) ^^^ polyEval b (pow2 i) := by
  rw [polyEval, List.foldl_append, foldl_horner b]
  rfl

theorem polyEval_cons (c : Byte) (l : Poly) (i : Nat) :
    polyEval (c :: l) (pow2 i) = fieldMul c (pow2 (i * l.length)) ^^^ polyEval l (pow2 i) := by
  have hc : polyEval [c] (pow2 i) = c :=
    (congrArg (· ^^^ c) (fieldMul_zero_left (pow2 i))).trans BitVec.zero_xor
  rw [← List.singleton_append, polyEval_append, hc]

/-- A leading zero does not count. -/
theorem polyEval_zero_cons (l : Poly) (i : Nat) : polyEval (0 :: l) (pow2 i) = polyEval l (pow2 i) := by
  rw [polyEval_cons, fieldMul_zero_left]
  exact BitVec.zero_xor

theorem polyEval_zeros (n i : Nat) : polyEval (zeros n) (pow2 i) = 0 := by
  induction n with
  | zero => rfl
  | succ n ih => rw [zeros_succ, polyEval_zero_cons, ih]

theorem polyEval_zeros_append (n : Nat) (l : Poly) (i : Nat) :
    polyEval (zeros n ++ l) (pow2 i) = polyEval l (pow2 i) := by
  rw [polyEval_append, polyEval_zeros, fieldMul_zero_left]
  exact BitVec.zero_xor

theorem polyEval_padLeft (n : Nat) (l : Poly) (i : Nat) :
    polyEval (padLeft n l) (pow2 i) = polyEval l (pow2 i) := polyEval_zeros_append _ l i

/-- Zeros behind a polynomial multiply its value. -/
theorem polyEval_append_zeros (l : Poly) (n i : Nat) :
    polyEval (l ++ zeros n) (pow2 i) = fieldMul (polyEval l (pow2 i)) (pow2 (i * n)) := by
  rw [polyEval_append, polyEval_zeros, zeros_length]
  exact BitVec.xor_zero

theorem polyEval_poly (raw : List Byte) (n i : Nat) :
    polyEval (poly raw n) (pow2 i) = fieldMul (polyEval raw (pow2 i)) (pow2 (i * n)) := by
  obtain ⟨k, hk⟩ := exists_zeros_append_dropWhile raw
  rw [poly, polyEval_append_zeros, ← polyEval_zeros_append k, hk]

theorem polyEval_polyAdd {a b : Poly} (h : a.length = b.length) (i : Nat) :
    polyEval (polyAdd a b) (pow2 i) = polyEval a (pow2 i) ^^^ polyEval b (pow2 i) := by
  induction a generalizing b with
  | nil =>
    obtain rfl : b = [] := List.length_eq_zero_iff.mp h.symm
    exact BitVec.xor_zero.symm
  | cons x a ih =>
    cases b with
    | nil => cases h
    | cons y b =>
      have hl : a.length = b.length := Nat.succ.inj h
      rw [polyAdd_cons, polyEval_cons, polyEval_cons, polyEval_cons, ih hl, polyAdd_length hl, ← hl,
        fieldMul_xor_left]
      ac_rfl

theorem polyEval_scale (t : Byte) (e : Poly) (i : Nat) :
    polyEval (scale t e) (pow2 i) = fieldMul t (polyEval e (pow2 i)) := by
  induction e with
  | nil => exact (fieldMul_zero_right t).symm
  | cons c e ih =>
    rw [show scale t (c :: e) = fieldMul t c :: scale t e from rfl, polyEval_cons, polyEval_cons, ih, scale_length,
      fieldMul_xor_right, fieldMul_assoc]

/-- The value of a product is the product of the values. -/
theorem polyEval_polyMul (q : Poly) {e : Poly} (he : e ≠ []) (i : Nat) :
    polyEval (polyMul q e) (pow2 i) = fieldMul (polyEval q (pow2 i)) (polyEval e (pow2 i)) := by
  have hpos : 0 < e.length := List.length_pos_of_ne_nil he
  induction q with
  | nil => rw [polyMul_nil, polyEval_zeros, polyEval_nil, fieldMul_zero_left]
  | cons t q ih =>
    have hlen : (scale t e ++ zeros q.length).length = (0 :: polyMul q e).length := by
      simp [polyMul_length]
      omega
    rw [polyMul_cons t q he, polyEval_polyAdd hlen, polyEval_append_zeros, polyEval_scale, polyEval_zero_cons, ih,
      polyEval_cons, fieldMul_xor_left, fieldMul_assoc, fieldMul_assoc, fieldMul_comm (polyEval e _)]

/-- `pmod` keeps the value at every root of the divisor. -/
theorem pmod_polyEval {a e : Poly} (he : e ≠ []) (he0 : 0 ∉ e) (ha : e.length ≤ a.length → a.head? ≠ some 0) :
    ∃ r, pmod a e = .ok r ∧
      ∀ i, polyEval e (pow2 i) = 0 → polyEval r (pow2 i) = polyEval a (pow2 i) := by
  by_cases hl : a.length < e.length
  · exact ⟨a, pmod_of_length_lt hl, fun _ _ => rfl⟩
  · have hle : e.length ≤ a.length := Nat.le_of_not_lt hl
    obtain ⟨r, q, hr, -, hq, heq⟩ := pmod_ok he he0 hle (ha hle)
    have hrlen : r.length ≤ a.length := (pmod_length_lt hr).le.trans hle
    have hlen : (polyMul q e).length = (padLeft a.length r).length := by
      rw [polyMul_length, padLeft_length hrlen, hq]
      omega
    refine ⟨r, hr, fun i hi => ?_⟩
    conv_rhs => rw [← heq]
    rw [polyEval_polyAdd hlen, polyEval_polyMul q he, hi, fieldMul_zero_right, polyEval_padLeft]
    exact BitVec.zero_xor.symm

end Sys2Proof.Machine
end

section
/-! SUPPORT. The generator polynomial (rules R182, R183): the product of the factors by the powers of 2. Below degree
255 it has no zero coefficient, so no product on the way to a larger one raises. -/

namespace Sys2Proof.Machine

open Sys2Proof.Reference

/-- The monic polynomial of degree `n` with the roots `2^0` to `2^(n-1)` (rule R182). -/
def generatorPoly : Nat → Poly
  | 0 => [1]
  | n + 1 => polyMul (generatorPoly n) [1, pow2 n]

theorem generatorPoly_length (n : Nat) : (generatorPoly n).length = n + 1 := by
  induction n with
  | zero => rfl
  | succ n ih =>
    rw [generatorPoly, polyMul_length, ih]
    rfl

theorem generatorPoly_ne_nil (n : Nat) : generatorPoly n ≠ [] :=
  List.ne_nil_of_length_pos (by rw [generatorPoly_length]; exact Nat.succ_pos n)

/-- Every factor puts its root there, and keeps those of the factors before. -/
theorem isCodeword_generatorPoly (n : Nat) : isCodeword (generatorPoly n) n := by
  induction n with
  | zero => exact fun i hi => absurd hi (Nat.not_lt_zero i)
  | succ n ih =>
    intro i hi
    have hfactor : polyEval [1, pow2 n] (pow2 i) = pow2 i ^^^ pow2 n := by
      rw [polyEval_cons, polyEval_cons, fieldMul_one_left, polyEval_nil, List.length_singleton, Nat.mul_one,
        List.length_nil, Nat.mul_zero, show pow2 0 = 1 from rfl, fieldMul_one_right]
      exact congrArg (pow2 i ^^^ ·) BitVec.xor_zero
    rw [generatorPoly, polyEval_polyMul _ (List.cons_ne_nil _ _), hfactor]
    rcases Nat.lt_succ_iff_lt_or_eq.mp hi with hlt | rfl
    · rw [ih i hlt, fieldMul_zero_left]
    · rw [BitVec.xor_self]
      exact fieldMul_zero_right _

/-! ## Its coefficients -/

/-- A product with a linear factor. -/
theorem polyMul_linear (q : Poly) (c : Byte) : polyMul q [1, c] = polyAdd (q ++ [0]) (0 :: scale c q) := by
  have hc : [1, c] ≠ [] := List.cons_ne_nil _ _
  induction q with
  | nil => exact polyMul_nil _
  | cons t q ih =>
    have hscale : scale t [1, c] = [t, fieldMul c t] :=
      congrArg₂ (fun a b => [a, b]) (fieldMul_one_right t) (fieldMul_comm t c)
    have hrow : polyAdd (fieldMul c t :: zeros q.length) (0 :: scale c q) = fieldMul c t :: scale c q := by
      rw [polyAdd_cons, zeros_polyAdd (scale_length c q)]
      exact congrArg (· :: scale c q) BitVec.xor_zero
    rw [polyMul_cons t q hc, ih, hscale, List.cons_append, polyAdd_cons, List.cons_append, List.cons_append,
      polyAdd_cons, List.nil_append, polyAdd_comm (q ++ [0]), ← polyAdd_assoc, hrow, polyAdd_comm]
    rfl

theorem getD_polyAdd {a b : Poly} (h : a.length = b.length) (k : Nat) :
    (polyAdd a b).getD k 0 = a.getD k 0 ^^^ b.getD k 0 := by
  by_cases hk : k < a.length
  · have hk' : k < (polyAdd a b).length := by rwa [polyAdd_length h]
    rw [List.getD_eq_getElem _ _ hk', List.getD_eq_getElem _ _ hk, List.getD_eq_getElem _ _ (h ▸ hk)]
    exact List.getElem_zipWith ..
  · rw [List.getD_eq_default _ _ (by rw [polyAdd_length h]; omega), List.getD_eq_default _ _ (by omega),
      List.getD_eq_default _ _ (by omega)]
    rfl

theorem getD_append_zero (q : Poly) (k : Nat) : (q ++ [0]).getD k 0 = q.getD k 0 := by
  rcases Nat.lt_trichotomy k q.length with hk | rfl | hk
  · exact List.getD_append _ _ _ _ hk
  · rw [List.getD_append_right _ _ _ _ (Nat.le_refl _), List.getD_eq_default q _ (Nat.le_refl _), Nat.sub_self]
    rfl
  · rw [List.getD_eq_default _ _ (by simpa using hk), List.getD_eq_default _ _ hk.le]

theorem getD_scale (c : Byte) (q : Poly) (k : Nat) : (scale c q).getD k 0 = fieldMul c (q.getD k 0) := by
  rw [← List.getD_map (f := fieldMul c), fieldMul_zero_right]
  rfl

/-- Coefficient `j` of the generator of degree `n`, highest-degree term first. -/
def generatorCoeff (n j : Nat) : Byte := (generatorPoly n).getD j 0

theorem generatorPoly_succ (n : Nat) :
    generatorPoly (n + 1) = polyAdd (generatorPoly n ++ [0]) (0 :: scale (pow2 n) (generatorPoly n)) :=
  polyMul_linear _ _

/-- A generator is monic. -/
theorem generatorCoeff_zero (n : Nat) : generatorCoeff n 0 = 1 := by
  induction n with
  | zero => rfl
  | succ n ih =>
    rw [generatorCoeff, generatorPoly_succ, getD_polyAdd (by simp), getD_append_zero, ← ih]
    exact BitVec.xor_zero

/-- A factor adds to each coefficient the multiple of the one before. -/
theorem generatorCoeff_succ_succ (n j : Nat) : generatorCoeff (n + 1) (j + 1) =
    generatorCoeff n (j + 1) ^^^ fieldMul (pow2 n) (generatorCoeff n j) := by
  rw [generatorCoeff, generatorPoly_succ, getD_polyAdd (by simp), getD_append_zero, List.getD_cons_succ, getD_scale]
  rfl

/-- A sum with a pair in it that another equation exchanges for a term of it. -/
theorem xor_eq_of_xor_eq {x a y z w : Byte} (h : x ^^^ a = y ^^^ z) : (x ^^^ w) ^^^ (a ^^^ y) = z ^^^ w := by
  calc (x ^^^ w) ^^^ (a ^^^ y) = (x ^^^ a) ^^^ (y ^^^ w) := by ac_rfl
    _ = (y ^^^ y) ^^^ (z ^^^ w) := by rw [h]; ac_rfl
    _ = z ^^^ w := by rw [BitVec.xor_self, BitVec.zero_xor]

/-- Neighbouring coefficients are multiples of one another, by the factors `2^(j+1) + 1` and `2^n + 2^j`. -/
theorem generatorCoeff_ratio (n j : Nat) :
    fieldMul (pow2 (j + 1)) (generatorCoeff n (j + 1)) ^^^ generatorCoeff n (j + 1) =
      fieldMul (pow2 n) (generatorCoeff n j) ^^^ fieldMul (pow2 j) (generatorCoeff n j) := by
  induction n generalizing j with
  | zero =>
    have h0 (j : Nat) : generatorCoeff 0 (j + 1) = 0 := rfl
    cases j with
    | zero => rw [h0, BitVec.xor_self, fieldMul_zero_right]; rfl
    | succ j => simp only [h0, fieldMul_zero_right, BitVec.xor_self]
  | succ n ih =>
    have hpow (a b : Nat) (c : Byte) : fieldMul (pow2 a) (fieldMul (pow2 b) c) = fieldMul (pow2 (a + b)) c := by
      rw [← fieldMul_assoc, fieldMul_pow2_pow2]
    -- Both sides are the coefficient before the step times `2^j + 2^(n+1+j)`.
    have hleft : fieldMul (pow2 (j + 1)) (generatorCoeff (n + 1) (j + 1)) ^^^ generatorCoeff (n + 1) (j + 1) =
        fieldMul (pow2 j) (generatorCoeff n j) ^^^ fieldMul (pow2 (n + 1 + j)) (generatorCoeff n j) := by
      rw [generatorCoeff_succ_succ, fieldMul_xor_right, hpow, show j + 1 + n = n + 1 + j by omega]
      exact xor_eq_of_xor_eq (ih j)
    have hright : fieldMul (pow2 (n + 1)) (generatorCoeff (n + 1) j) ^^^ fieldMul (pow2 j) (generatorCoeff (n + 1) j) =
        fieldMul (pow2 j) (generatorCoeff n j) ^^^ fieldMul (pow2 (n + 1 + j)) (generatorCoeff n j) := by
      cases j with
      | zero => rw [generatorCoeff_zero, generatorCoeff_zero, BitVec.xor_comm, Nat.add_zero]
      | succ j =>
        have hprev := congrArg (fieldMul (pow2 (n + 1))) (ih j)
        simp only [fieldMul_xor_right, hpow] at hprev
        rw [BitVec.xor_comm] at hprev
        have hsum := xor_eq_of_xor_eq (w := fieldMul (pow2 (j + 1)) (generatorCoeff n (j + 1))) hprev.symm
        rw [generatorCoeff_succ_succ, fieldMul_xor_right, fieldMul_xor_right, hpow, hpow,
          show j + 1 + n = n + 1 + j by omega]
        exact Eq.trans (by ac_rfl) (hsum.trans (BitVec.xor_comm _ _))
    rw [hleft, hright]

/-- The powers of 2 below `2^255` are different. -/
theorem pow2_ne {j n : Nat} (hj : j < n) (hn : n < 255) : pow2 j ≠ pow2 n := by
  have hone : ∀ k < 254, pow2 (k + 1) ≠ 1 := by decide +kernel
  obtain ⟨k, rfl⟩ := Nat.exists_eq_add_of_lt hj
  intro h
  have hzero : fieldMul (pow2 j) (1 ^^^ pow2 (k + 1)) = 0 := by
    rw [fieldMul_xor_right, fieldMul_one_right, fieldMul_pow2_pow2, ← Nat.add_assoc, ← h, BitVec.xor_self]
    rfl
  exact fieldMul_ne_zero (pow2_ne_zero j) (fun h1 => hone k (by omega) (BitVec.xor_eq_zero_iff.mp h1).symm) hzero

theorem generatorCoeff_ne_zero {n j : Nat} (hn : n < 255) (hj : j ≤ n) : generatorCoeff n j ≠ 0 := by
  induction j with
  | zero =>
    rw [generatorCoeff_zero]
    decide
  | succ j ih =>
    intro h0
    have hratio := generatorCoeff_ratio n j
    rw [h0, fieldMul_zero_right, BitVec.xor_self, ← fieldMul_xor_left] at hratio
    exact fieldMul_ne_zero (fun h => pow2_ne hj hn (BitVec.xor_eq_zero_iff.mp h).symm) (ih (by omega)) hratio.symm

/-- Below degree 255 a generator has no zero coefficient. -/
theorem zero_not_mem_generatorPoly {n : Nat} (hn : n < 255) : 0 ∉ generatorPoly n := by
  intro h
  obtain ⟨j, hj, hzero⟩ := List.mem_iff_getElem.mp h
  have hle : j ≤ n := by
    rw [generatorPoly_length] at hj
    omega
  exact generatorCoeff_ne_zero hn hle ((List.getD_eq_getElem _ _ hj).trans hzero)

/-! ## The loop and the command -/

theorem generatorFrom_ok {n i : Nat} (h : i + n ≤ 255) :
    generatorFrom n i (generatorPoly i) = .ok (generatorPoly (i + n)) := by
  induction n generalizing i with
  | zero => rfl
  | succ n ih =>
    have hfactor : 0 ∉ [1, pow2 i] :=
      List.not_mem_cons_of_ne_of_not_mem (by decide) (mt List.mem_singleton.mp (pow2_ne_zero i).symm)
    have hmul : pmul (generatorPoly i) [1, gexp i] = .ok (generatorPoly (i + 1)) := by
      rw [gexp_natCast]
      exact pmul_ok (generatorPoly_ne_nil i) (List.cons_ne_nil _ _) (zero_not_mem_generatorPoly (by omega)) hfactor
    rw [generatorFrom, hmul, ok_bind, ih (by omega), Nat.add_right_comm, Nat.add_assoc]

/-- No count of 8 bits makes `generator` raise. -/
theorem generator_ok {ec : Nat} (h : ec ≤ 255) : generator ec = .ok (generatorPoly ec) := by
  have hfrom := generatorFrom_ok (n := ec) (i := 0) (by omega)
  rwa [Nat.zero_add] at hfrom

/-- Settles O45: the loop multiplies the factors one by one, none of its products raises, and the result always fits the
register. -/
theorem rsGenHasTheRootsOfTheGenerator : Obligations.RsGenHasTheRootsOfTheGenerator := by
  unfold Obligations.RsGenHasTheRootsOfTheGenerator
  intro pd ec
  refine ⟨by simp [encode, packFields_eq_commandWord], fun s hf => ?_⟩
  have hec := ec.isLt
  have hlen := generatorPoly_length ec.toNat
  have hbody : bodyOf (.rsGen pd ec) s = storePoly pd (generatorPoly ec.toNat) s := by
    rw [bodyOf, bodyRsGen, zext8, generator_ok (by omega)]
    rfl
  obtain ⟨hstore, -⟩ := exec_of_storePoly (by simp) rfl hf hbody
  refine ⟨generatorPoly ec.toNat, hstore (by omega), hlen, ?_, isCodeword_generatorPoly _⟩
  obtain ⟨c, g, hg⟩ := List.exists_cons_of_ne_nil (generatorPoly_ne_nil ec.toNat)
  have hmonic := generatorCoeff_zero ec.toNat
  rw [generatorCoeff, hg] at hmonic
  rw [hg]
  exact congrArg some hmonic

end Sys2Proof.Machine
end

section
/-! SUPPORT. The codeword stream (rules R184 to R187): a block's check bytes complete it to a codeword, and the
interleaving is the column by column order of the reference description. -/

namespace Sys2Proof.Machine

open Sys2Proof.Reference

/-! ## One block (rule R184) -/

/-- The check bytes of a block: as many as asked for, and with the data a codeword (rule R187(b)). -/
theorem blockEc_ok (data : List Byte) {ec : Nat} (h : ec < 255) :
    ∃ check, blockEc data ec = .ok check ∧ check.length = ec ∧ isCodeword (data ++ check) ec := by
  have hlen := generatorPoly_length ec
  have hhead : (generatorPoly ec).length ≤ (poly data ec).length → (poly data ec).head? ≠ some 0 := by
    intro hle h0
    cases hraw : data.dropWhile (· == 0) with
    | nil =>
      rw [hlen, poly, hraw, List.nil_append, zeros_length] at hle
      omega
    | cons c raw =>
      have hne := head?_dropWhile_ne_zero data
      rw [poly, hraw] at h0
      rw [hraw] at hne
      exact hne h0
  obtain ⟨m, hm, hroots⟩ := pmod_polyEval (generatorPoly_ne_nil ec) (zero_not_mem_generatorPoly h) hhead
  have hmlen : m.length ≤ ec := by
    have := pmod_length_lt hm
    omega
  refine ⟨padLeft ec m, ?_, padLeft_length hmlen, fun i hi => ?_⟩
  · rw [blockEc, generator_ok (by omega), ok_bind, hlen, Nat.add_sub_cancel, hm]
    rfl
  · rw [polyEval_append, padLeft_length hmlen, polyEval_padLeft, hroots i (isCodeword_generatorPoly ec i hi),
      polyEval_poly, BitVec.xor_self]
    rfl

/-! ## The blocks of a stream (rule R185) -/

theorem dataChunks_flatten {blocks : List RsBlock} {buffer : List Byte} (h : buffer.length = totalData blocks) :
    (dataChunks blocks buffer).flatten = buffer := by
  induction blocks generalizing buffer with
  | nil => exact (List.length_eq_zero_iff.mp h).symm
  | cons b bs ih =>
    have hsum : totalData (b :: bs) = b.dataCount + totalData bs := by simp [totalData]
    rw [dataChunks, List.flatten_cons, ih (by rw [List.length_drop]; omega), List.take_append_drop]

theorem dataChunks_lengths {blocks : List RsBlock} {buffer : List Byte} (h : buffer.length = totalData blocks) :
    (dataChunks blocks buffer).map List.length = blocks.map (·.dataCount) := by
  induction blocks generalizing buffer with
  | nil => rfl
  | cons b bs ih =>
    have hsum : totalData (b :: bs) = b.dataCount + totalData bs := by simp [totalData]
    rw [dataChunks, List.map_cons, ih (by rw [List.length_drop]; omega), List.length_take, List.map_cons,
      Nat.min_eq_left (by omega)]

/-- The check bytes of all blocks, for as many chunks as blocks. -/
theorem ecChunks_ok {blocks : List RsBlock} {chunks : List (List Byte)} (hl : chunks.length = blocks.length)
    (hb : ∀ b ∈ blocks, b.valid) :
    ∃ checks, ecChunks blocks chunks = .ok checks ∧
      checks.map List.length = blocks.map (fun b => b.totalCount - b.dataCount) ∧
      ∀ d e, (d, e) ∈ chunks.zip checks → isCodeword (d ++ e) e.length := by
  induction blocks generalizing chunks with
  | nil =>
    obtain rfl := List.length_eq_zero_iff.mp hl
    exact ⟨[], rfl, rfl, fun _ _ h => absurd h List.not_mem_nil⟩
  | cons b bs ih =>
    obtain ⟨c, cs, rfl⟩ := List.exists_cons_of_length_eq_add_one hl
    obtain ⟨⟨hpos, hle, hlt⟩, hbs⟩ := List.forall_mem_cons.mp hb
    obtain ⟨check, hcheck, hlen, hcode⟩ := blockEc_ok c (ec := b.totalCount - b.dataCount) (by omega)
    obtain ⟨checks, hchecks, hlens, hcodes⟩ := ih (Nat.succ.inj hl) hbs
    refine ⟨check :: checks, ?_, ?_, fun d e hde => ?_⟩
    · rw [ecChunks, hcheck, ok_bind, hchecks]
      rfl
    · rw [List.map_cons, List.map_cons, hlen, hlens]
    · rcases List.mem_cons.mp hde with h | h
      · obtain ⟨rfl, rfl⟩ := Prod.mk.inj h
        rwa [hlen]
      · exact hcodes d e h

/-! ## Column by column (rule R185) -/

theorem tail_length_le {m : Nat} {rows : List (List Byte)} (h : ∀ row ∈ rows, row.length ≤ m + 1) :
    ∀ row ∈ rows.map List.tail, row.length ≤ m := by
  intro row hrow
  obtain ⟨r, hr, rfl⟩ := List.mem_map.mp hrow
  rw [List.length_tail]
  exact Nat.sub_le_of_le_add (h r hr)

theorem columnMajor_of_all_nil (n : Nat) {rows : List (List Byte)} (h : ∀ row ∈ rows, row.length ≤ 0) :
    columnMajor n rows = [] := by
  induction n generalizing rows with
  | zero => rfl
  | succ n ih =>
    have hheads : rows.filterMap List.head? = [] := by
      refine List.filterMap_eq_nil_iff.mpr fun row hrow => ?_
      rw [List.length_eq_zero_iff.mp (Nat.le_zero.mp (h row hrow)), List.head?_nil]
    rw [columnMajor, hheads, ih (tail_length_le fun row hrow => (h row hrow).trans (Nat.zero_le 1)), List.append_nil]

/-- Columns behind the longest row are empty. -/
theorem columnMajor_eq_of_le {m n : Nat} {rows : List (List Byte)} (h : ∀ row ∈ rows, row.length ≤ m) (hmn : m ≤ n) :
    columnMajor m rows = columnMajor n rows := by
  induction m generalizing n rows with
  | zero => exact (columnMajor_of_all_nil n h).symm
  | succ m ih =>
    obtain ⟨n, rfl⟩ : ∃ k, n = k + 1 := ⟨n - 1, by omega⟩
    rw [columnMajor, columnMajor, ih (tail_length_le h) (Nat.le_of_succ_le_succ hmn)]

/-- The columns by their index, as `interleave` has them. -/
theorem columns_eq_columnMajor (n : Nat) (rows : List (List Byte)) :
    ((List.range n).flatMap fun i => rows.filterMap fun row => row[i]?) = columnMajor n rows := by
  induction n generalizing rows with
  | zero => rfl
  | succ n ih =>
    rw [List.range_succ_eq_map, List.flatMap_cons, List.flatMap_map, columnMajor, ← ih]
    simp [List.filterMap_map, List.head?_eq_getElem?]

theorem le_foldl_max {x acc : Nat} {l : List Nat} (h : x ≤ acc ∨ x ∈ l) : x ≤ l.foldl max acc := by
  induction l generalizing acc with
  | nil => exact h.resolve_right List.not_mem_nil
  | cons y l ih =>
    rcases h with h | h
    · exact ih (.inl (h.trans (Nat.le_max_left _ _)))
    · rcases List.mem_cons.mp h with rfl | h
      · exact ih (.inl (Nat.le_max_right _ _))
      · exact ih (.inr h)

/-- `interleave` is the column by column order, for any number of columns that is enough. -/
theorem interleave_eq_columnMajor {n : Nat} {rows : List (List Byte)} (h : ∀ row ∈ rows, row.length ≤ n) :
    interleave rows = columnMajor n rows := by
  have hlongest : ∀ row ∈ rows, row.length ≤ (rows.map List.length).foldl max 0 :=
    fun row hrow => le_foldl_max (.inr (List.mem_map_of_mem hrow))
  calc interleave rows = columnMajor ((rows.map List.length).foldl max 0) rows := columns_eq_columnMajor _ _
    _ = columnMajor (max ((rows.map List.length).foldl max 0) n) rows :=
        columnMajor_eq_of_le hlongest (Nat.le_max_left _ _)
    _ = columnMajor n rows := (columnMajor_eq_of_le h (Nat.le_max_right _ _)).symm

theorem heads_add_tails_length (rows : List (List Byte)) :
    (rows.filterMap List.head?).length + ((rows.map List.tail).map List.length).sum = (rows.map List.length).sum := by
  induction rows with
  | nil => rfl
  | cons row rows ih =>
    cases row with
    | nil =>
      rw [List.filterMap_cons_none rfl]
      simpa using ih
    | cons c row =>
      simp only [List.filterMap_cons, List.head?_cons, List.map_cons, List.tail_cons, List.sum_cons,
        List.length_cons] at ih ⊢
      omega

/-- Column by column every element stands once. -/
theorem columnMajor_length {n : Nat} {rows : List (List Byte)} (h : ∀ row ∈ rows, row.length ≤ n) :
    (columnMajor n rows).length = (rows.map List.length).sum := by
  induction n generalizing rows with
  | zero =>
    refine (List.sum_eq_zero fun k hk => ?_).symm
    obtain ⟨row, hrow, rfl⟩ := List.mem_map.mp hk
    exact Nat.le_zero.mp (h row hrow)
  | succ n ih => rw [columnMajor, List.length_append, ih (tail_length_le h), heads_add_tails_length]

/-! ## The stream and the command (rules R185, R186) -/

theorem row_length_le {rows : List (List Byte)} {blocks : List RsBlock} {f : RsBlock → Nat} {n : Nat}
    (hlens : rows.map List.length = blocks.map f) (h : ∀ b ∈ blocks, f b ≤ n) : ∀ row ∈ rows, row.length ≤ n := by
  intro row hrow
  have hmem : row.length ∈ blocks.map f := hlens ▸ List.mem_map_of_mem hrow
  obtain ⟨b, hb, hfb⟩ := List.mem_map.mp hmem
  exact hfb ▸ h b hb

/-- The stream of a buffer of exactly the data codewords of valid blocks. -/
theorem createBytes_ok {blocks : List RsBlock} {buffer : List Byte} (hb : ∀ b ∈ blocks, b.valid)
    (h : buffer.length = totalData blocks) :
    ∃ data checks : List (List Byte),
      data.flatten = buffer ∧
      data.map List.length = blocks.map (·.dataCount) ∧
      checks.map List.length = blocks.map (fun b => b.totalCount - b.dataCount) ∧
      (∀ d e, (d, e) ∈ data.zip checks → isCodeword (d ++ e) e.length) ∧
      (columnMajor 256 data ++ columnMajor 256 checks).length = totalCodewords blocks ∧
      createBytes buffer blocks = .ok (columnMajor 256 data ++ columnMajor 256 checks) := by
  have hdata := dataChunks_lengths h
  have hcount : (dataChunks blocks buffer).length = blocks.length := by simpa using congrArg List.length hdata
  obtain ⟨checks, hec, hchecks, hcodes⟩ := ecChunks_ok hcount hb
  have hle : ∀ b ∈ blocks, b.dataCount ≤ b.totalCount := fun b hmem => by
    obtain ⟨-, hle, -⟩ := hb b hmem
    exact hle
  have hdatale := row_length_le (n := 256) hdata fun b hmem => by have := hb b hmem; omega
  have hchecksle := row_length_le (n := 256) hchecks fun b hmem => by have := hb b hmem; omega
  refine ⟨_, checks, dataChunks_flatten h, hdata, hchecks, hcodes, ?_, ?_⟩
  · rw [List.length_append, columnMajor_length hdatale, columnMajor_length hchecksle, hdata, hchecks]
    exact totalData_add_totalEc hle
  · rw [createBytes, hec, ok_bind, interleave_eq_columnMajor hdatale, interleave_eq_columnMajor hchecksle]
    rfl

/-- Outside the tables `RS.ENC` raises. -/
theorem bodyRsEnc_outside {s : State} (hv : ¬ versionLegal s) :
    bodyRsEnc rom s = raise s .tableEntryMissing (missingIndex s) := by
  rw [bodyRsEnc, State.blocks, getRSBlocks_outside _ hv]
  rfl

/-- The lookup of a version of the tables, in the terms of the reference description. -/
theorem getRSBlocks_eq_blocksOf {version level : Nat} (hv : 1 ≤ version ∧ version ≤ 40) (hl : level < 4) :
    getRSBlocks rom version level = .ok (blocksOf version level) := by
  rw [blocksOf, getRSBlocks_inside hv hl]

/-- The codewords of a version's blocks are its total (rule R187(a)). -/
theorem totalCodewords_blocksOf {version level : Nat} (hv : 1 ≤ version ∧ version ≤ 40) (hl : level < 4) :
    some (totalCodewords (blocksOf version level)) = codewordTotals[version - 1]? := by
  obtain ⟨-, -, -, -, -, -, htotal⟩ := cellValid hv hl
  rw [blocksOf, getRSBlocks_inside hv hl]
  exact htotal

/-- The codewords of any version fit CW. -/
theorem totalCodewords_blocksOf_le {version level : Nat} (hv : 1 ≤ version ∧ version ≤ 40) (hl : level < 4) :
    totalCodewords (blocksOf version level) ≤ Config.cwMax := by
  have h : ∀ n ∈ codewordTotals, n ≤ Config.cwMax := by decide
  exact h _ (List.mem_of_getElem? (totalCodewords_blocksOf hv hl).symm)

/-- Another length than that of the data codewords raises. -/
theorem bodyRsEnc_of_len_ne {s : State} (hv : versionLegal s) (hlen : s.bb.len ≠ 8 * dataWords s) :
    bodyRsEnc rom s = raise s .sequenceError s.bb.len := by
  rw [bodyRsEnc, State.blocks, getRSBlocks_eq_blocksOf hv s.level.isLt]
  exact if_pos hlen

/-- With the bits of the data codewords `RS.ENC` writes the stream of their bytes. -/
theorem bodyRsEnc_of_len_eq {s : State} {out : List Byte} (hv : versionLegal s) (hlen : s.bb.len = 8 * dataWords s)
    (hout : createBytes (s.bb.bytes.take (dataWords s)) (blocksOf s.version.toNat s.level.toNat) = .ok out) :
    bodyRsEnc rom s = .ok { s with cw := out, dcValid := true } := by
  have hfits := totalCodewords_blocksOf_le hv s.level.isLt
  rw [dataWords, dataTotal] at hlen hout
  rw [bodyRsEnc, State.blocks, getRSBlocks_eq_blocksOf hv s.level.isLt, liftRaise_ok, ok_bind,
    if_neg (not_not.mpr hlen), if_neg (Nat.not_lt.mpr hfits), hout]
  rfl

/-- Settles O46: each block's check bytes are the remainder that completes it to a codeword, and the interleaving is the
order by columns; the two faults leave CW free. -/
theorem rsEncAppendsTheCheckBytes : Obligations.RsEncAppendsTheCheckBytes := by
  unfold Obligations.RsEncAppendsTheCheckBytes
  refine ⟨by decide, fun s hf hb => ⟨fun hv => ?_, fun hv hlen => ?_, fun hv hlen => ?_⟩⟩
  · exact ⟨_, _, exec_of_error (i := .rsEnc) nofun hf (bodyRsEnc_outside hv)⟩
  · exact ⟨_, _, exec_of_error (i := .rsEnc) nofun hf (bodyRsEnc_of_len_ne hv hlen)⟩
  · have hl : s.level.toNat < 4 := s.level.isLt
    obtain ⟨hbytes, -⟩ := hb
    have hsize : s.bb.bytes.length = dataWords s := by omega
    have htake : s.bb.bytes.take (dataWords s) = s.bb.bytes := List.take_of_length_le hsize.le
    obtain ⟨data, checks, hflat, hdata, hchecks, hcodes, htotal, hout⟩ :=
      createBytes_ok (getRSBlocks_valid (getRSBlocks_eq_blocksOf hv hl)) hsize
    refine ⟨data, checks, hflat, hdata, hchecks, hcodes, ?_, ?_⟩
    · rw [htotal, totalCodewords_blocksOf hv hl]
    · exact exec_of_ok (i := .rsEnc) nofun hf (bodyRsEnc_of_len_eq hv hlen (by rwa [htake]))

end Sys2Proof.Machine
end

section
/-! SUPPORT. The BCH commands and `MASK.TST` (rules R210 to R216): their rules by the range of each operand, the printed
words against the reduction, and the predicates over the integers. -/

namespace Sys2Proof.Machine

open Sys2Proof.Reference

/-! ## The BCH encoders -/

/-- The reduction gives the printed format words (rule R210). -/
theorem formatWords_getElem? : ∀ n < 32, formatWords[n]? = some (bchFormat rom n) := by decide

/-- The reduction gives the printed version words (rule R212). -/
theorem versionWords_getElem? : ∀ n < 64, versionWords[n]? = some (bchVersion rom n) := by decide

/-- An operand of the BCH encoders is inside its range or raises. -/
theorem boundedOperand_cases (bound v : Int) (s : State) :
    (0 ≤ v ∧ v ≤ bound ∧ boundedOperand bound v s = .ok v.toNat) ∨
    ((v < 0 ∨ bound < v) ∧ boundedOperand bound v s = raise s .operandRange v) := by
  unfold boundedOperand
  split
  · exact .inr ⟨‹_›, rfl⟩
  · exact .inl ⟨by omega, by omega, rfl⟩

/-- A command that encodes its operand, by the operand's range (rules R211, R213). -/
theorem exec_of_boundedOperand {i : Instr} {rd ra : XReg} {bound : Int} {encoder : Nat → Nat} {s : State}
    (hi : i ≠ .reset) (ho : outputsOf i = Outputs.kept) (hf : s.fault = false)
    (hb : bodyOf i s = boundedOperand bound (s.readX ra) s >>= fun data => .ok (s.writeX rd (encoder data))) :
    (0 ≤ s.x[ra].toInt → s.x[ra].toInt ≤ bound →
      exec i s = .next { s with x := s.x.set rd (BitVec.ofNat 32 (encoder s.x[ra].toInt.toNat)) }) ∧
    (s.x[ra].toInt < 0 ∨ bound < s.x[ra].toInt →
      exec i s = .next (faulted (encode i) .operandRange s.x[ra].toInt s)) := by
  obtain ⟨h0, hle, hop⟩ | ⟨hout, hop⟩ := boundedOperand_cases bound (s.readX ra) s <;> rw [hop] at hb
  · exact ⟨fun _ _ => exec_of_count hi hf hb, fun hout => absurd hout (not_or.mpr ⟨h0.not_gt, hle.not_gt⟩)⟩
  · exact ⟨fun h0 hle => absurd hout (not_or.mpr ⟨h0.not_gt, hle.not_gt⟩), fun _ => exec_of_raise hi ho hf hb⟩

/-- The bit length is the least exponent whose power of 2 is above the number (rule R11). -/
theorem bitlen_spec (n : Nat) : n < 2 ^ bitlen n ∧ (bitlen n = 0 ∨ 2 ^ (bitlen n - 1) ≤ n) := by
  unfold bitlen
  split
  next h => exact ⟨by simp [h], .inl rfl⟩
  next h => exact ⟨Nat.lt_log2_self, .inr (Nat.log2_self_le h)⟩

theorem bitlen_le {n k : Nat} (h : n < 2 ^ k) : bitlen n ≤ k := by
  obtain ⟨-, h0 | hle⟩ := bitlen_spec n
  · omega
  · have := (Nat.pow_lt_pow_iff_right (a := 2) (by decide)).mp (hle.trans_lt h)
    omega

/-- `BCH.DIGIT` of an operand that is not negative (rule R214). -/
theorem bodyBchDigit_ok {rd ra : XReg} {s : State} (h : 0 ≤ s.readX ra) :
    bodyBchDigit rd ra s = .ok (s.writeX rd (bitlen (s.readX ra).toNat)) := if_neg (Int.not_lt.mpr h)

theorem bodyBchDigit_negative {rd ra : XReg} {s : State} (h : s.readX ra < 0) :
    bodyBchDigit rd ra s = raise s .operandRange (s.readX ra) := if_pos h

/-- Settles O47: the printed words are the encoders' answers, and the bit length is bounded by its powers of 2. -/
theorem bchCommandsGiveThePrintedWords : Obligations.BchCommandsGiveThePrintedWords := by
  unfold Obligations.BchCommandsGiveThePrintedWords
  intro rd ra
  refine ⟨⟨packFields_xBits_xBits 0x50 rd ra, packFields_xBits_xBits 0x51 rd ra, packFields_xBits_xBits 0x52 rd ra⟩,
    fun s hf => ?_⟩
  obtain ⟨hfmt, hfmtRange⟩ := exec_of_boundedOperand (i := .bchFmt rd ra) (encoder := bchFormat rom) nofun rfl hf rfl
  obtain ⟨hver, hverRange⟩ := exec_of_boundedOperand (i := .bchVer rd ra) (encoder := bchVersion rom) nofun rfl hf rfl
  refine ⟨fun h0 hle => ⟨_, formatWords_getElem? _ (by omega), hfmt h0 hle⟩, hfmtRange,
    fun h0 hle => ⟨_, versionWords_getElem? _ (by omega), hver h0 hle⟩, hverRange, fun h0 => ?_,
    fun hneg => exec_of_raise nofun rfl hf (bodyBchDigit_negative hneg)⟩
  have hlt : s.x[ra].toInt.toNat < 2 ^ 31 := by have := BitVec.toInt_lt (x := s.x[ra]); omega
  obtain ⟨habove, hbelow⟩ := bitlen_spec s.x[ra].toInt.toNat
  refine ⟨bitlen s.x[ra].toInt.toNat, bitlen_le hlt, ?_, hbelow.imp_right fun h => ?_,
    exec_of_count nofun hf (bodyBchDigit_ok h0)⟩
  · exact (Int.toNat_lt h0).mp habove |>.trans_eq (by push_cast; rfl)
  · exact (show _ = _ by push_cast; rfl).trans_le ((Int.le_toNat h0).mp h)

/-! ## The mask predicates -/

/-- The eight predicates of rule R215 over the integers. -/
def maskHolds (pattern i j : Int) : Prop :=
  (pattern = 0 ∧ (i + j) % 2 = 0) ∨ (pattern = 1 ∧ i % 2 = 0) ∨ (pattern = 2 ∧ j % 3 = 0) ∨
  (pattern = 3 ∧ (i + j) % 3 = 0) ∨ (pattern = 4 ∧ (i / 2 + j / 3) % 2 = 0) ∨
  (pattern = 5 ∧ i * j % 2 + i * j % 3 = 0) ∨ (pattern = 6 ∧ (i * j % 2 + i * j % 3) % 2 = 0) ∨
  (pattern = 7 ∧ (i * j % 3 + (i + j) % 2) % 2 = 0)

theorem maskPredicate_iff (p : Fin 8) (i j : Nat) : maskPredicate p i j = true ↔ maskHolds (p.val : Int) i j := by
  have hprod : (i : Int) * j = (i * j : Nat) := (Int.natCast_mul i j).symm
  fin_cases p <;> simp [maskPredicate, maskHolds] <;> omega

theorem getMask_ok {p : Nat} (hp : p < 8) (i j : Nat) : getMask p i j = .ok (maskPredicate ⟨p, hp⟩ i j) := by
  simp [getMask, maskPattern?, hp]

/-- A coordinate of `MASK.TST` is inside the largest grid or raises. -/
theorem maskCoordinate_cases (v : Int) (s : State) :
    (0 ≤ v ∧ v ≤ 176 ∧ maskCoordinate v s = .ok v.toNat) ∨
    ((v < 0 ∨ 176 < v) ∧ maskCoordinate v s = raise s .operandRange v) := by
  have hmax : (Config.gridMax : Int) = 177 := rfl
  unfold maskCoordinate
  split
  · exact .inr ⟨by omega, rfl⟩
  · exact .inl ⟨by omega, by omega, rfl⟩

/-- `MASK.TST` checks the pattern, the row and the column in that order (rule R216). -/
theorem bodyMaskTst_cases (rd ra rb rc : XReg) (s : State) :
    ((s.readX ra < 0 ∨ 7 < s.readX ra) ∧ bodyMaskTst rd ra rb rc s = raise s .maskPattern (s.readX ra)) ∨
    ((0 ≤ s.readX ra ∧ s.readX ra ≤ 7) ∧ (s.readX rb < 0 ∨ 176 < s.readX rb) ∧
      bodyMaskTst rd ra rb rc s = raise s .operandRange (s.readX rb)) ∨
    ((0 ≤ s.readX ra ∧ s.readX ra ≤ 7) ∧ (0 ≤ s.readX rb ∧ s.readX rb ≤ 176) ∧
      (s.readX rc < 0 ∨ 176 < s.readX rc) ∧ bodyMaskTst rd ra rb rc s = raise s .operandRange (s.readX rc)) ∨
    ∃ (p : Fin 8) (i j : Nat), s.readX ra = (p.val : Int) ∧ s.readX rb = i ∧ s.readX rc = j ∧ i ≤ 176 ∧ j ≤ 176 ∧
      bodyMaskTst rd ra rb rc s = .ok (s.writeX rd (boolValue (maskPredicate p i j))) := by
  unfold bodyMaskTst
  dsimp only
  split
  next hp => exact .inl ⟨hp, rfl⟩
  next hp =>
    rw [not_or, Int.not_lt, gt_iff_lt, Int.not_lt] at hp
    obtain ⟨hi0, hile, hi⟩ | ⟨hi, hraise⟩ := maskCoordinate_cases (s.readX rb) s
    swap
    · exact .inr (.inl ⟨hp, hi, by rw [hraise]; rfl⟩)
    obtain ⟨hj0, hjle, hj⟩ | ⟨hj, hraise⟩ := maskCoordinate_cases (s.readX rc) s
    swap
    · exact .inr (.inr (.inl ⟨hp, ⟨hi0, hile⟩, hj, by rw [hi, hraise]; rfl⟩))
    obtain ⟨p, hp0⟩ := Int.eq_ofNat_of_zero_le hp.1
    refine .inr (.inr (.inr ⟨⟨p, by omega⟩, (s.readX rb).toNat, (s.readX rc).toNat, hp0, by omega, by omega, by omega,
      by omega, ?_⟩))
    rw [hi, hj, hp0, ok_bind, ok_bind, getMask_ok (by omega)]
    rfl

/-- Settles O48: the predicate of natural coordinates is that of the integers, and the checks come in their order. -/
theorem maskTstGivesTheEightPredicates : Obligations.MaskTstGivesTheEightPredicates := by
  unfold Obligations.MaskTstGivesTheEightPredicates
  intro rd ra rb rc
  refine ⟨by simp [encode, packFields_eq_commandWord], fun s hf => ?_⟩
  dsimp only
  have hread (r : XReg) : s.x[r].toInt = s.readX r := rfl
  simp only [hread]
  obtain ⟨hp, hbody⟩ | ⟨hp, hi, hbody⟩ | ⟨hp, hi, hj, hbody⟩ | ⟨p, i, j, hp, hi, hj, hi', hj', hbody⟩ :=
    bodyMaskTst_cases rd ra rb rc s
  · exact ⟨fun _ => exec_of_raise nofun rfl hf hbody, fun _ _ => False.elim (by omega)⟩
  · refine ⟨fun _ => False.elim (by omega), fun _ _ => ⟨fun _ => exec_of_raise nofun rfl hf hbody, ?_, ?_⟩⟩
    · exact fun _ _ => False.elim (by omega)
    · exact fun _ _ => False.elim (by omega)
  · refine ⟨fun _ => False.elim (by omega), fun _ _ => ⟨fun _ => False.elim (by omega), ?_, ?_⟩⟩
    · exact fun _ _ _ => exec_of_raise nofun rfl hf hbody
    · exact fun _ _ _ _ => False.elim (by omega)
  · rw [hp, hi, hj]
    have hpred := maskPredicate_iff p i j
    refine ⟨fun _ => False.elim (by omega), fun _ _ => ⟨fun _ => False.elim (by omega), ?_, fun _ _ _ _ =>
      ⟨fun h => exec_of_ok nofun hf ?_, fun h => exec_of_ok nofun hf ?_⟩⟩⟩
    · exact fun _ _ _ => False.elim (by omega)
    · rw [bodyOf, hbody, hpred.mpr h]
      rfl
    · rw [bodyOf, hbody, Bool.eq_false_iff.mpr (mt hpred.mp h)]
      rfl

end Sys2Proof.Machine
end

section
/-! SUPPORT. The penalty by counting cells (rules R217 to R222): the loops of the scorer as sums over the positions of a
rectangle, part by part, and the like neighbours of a module by offset and by distance. -/

namespace Sys2Proof.Machine

open Sys2Proof.Reference

/-! ## Sums over ranges and rectangles -/

theorem sumRange_succ (n : Nat) (f : Nat → Nat) : sumRange (n + 1) f = sumRange n f + f n := by
  simp [sumRange, List.range_succ]

theorem sumRange_congr {n : Nat} {f g : Nat → Nat} (h : ∀ k < n, f k = g k) : sumRange n f = sumRange n g :=
  congrArg List.sum (List.map_congr_left fun k hk => h k (List.mem_range.mp hk))

theorem sumRange_eq_sum (n : Nat) (f : Nat → Nat) : sumRange n f = ∑ k ∈ Finset.range n, f k := rfl

theorem sumRange_comm (m n : Nat) (f : Nat → Nat → Nat) :
    (sumRange m fun i => sumRange n fun j => f i j) = sumRange n fun j => sumRange m fun i => f i j := by
  simp only [sumRange_eq_sum]
  exact Finset.sum_comm

/-- A list's sum by index. -/
theorem sum_map_eq_sumRange {α : Type} (l : List α) (d : α) (f : α → Nat) :
    (l.map f).sum = sumRange l.length fun k => f (l.getD k d) :=
  congrArg List.sum (List.ext_getElem (by simp) fun k hk _ => by
    simp only [List.length_map] at hk
    simp [hk])

/-- A multiple of the number of elements with a property, as a sum over all. -/
theorem mul_length_filter {α : Type} (k : Nat) (p : α → Bool) (l : List α) :
    k * (l.filter p).length = (l.map fun a => if p a then k else 0).sum := by
  simp [List.sum_map_ite, Nat.mul_comm]

theorem sum_map_positions (h w : Nat) (f : Nat × Nat → Nat) :
    ((positions h w).map f).sum = sumRange h fun r => sumRange w fun c => f (r, c) := by
  simp [positions, sumRange, List.flatMap, List.map_flatten, List.sum_flatten, Function.comp_def]

/-- A multiple of the number of positions with a property. -/
theorem mul_count_positions (k h w : Nat) (p : Nat × Nat → Bool) :
    k * ((positions h w).filter p).length = sumRange h fun r => sumRange w fun c => if p (r, c) then k else 0 := by
  rw [mul_length_filter, sum_map_positions]

/-! ## Part (a): the neighbourhood -/

/-- One more index inside a range. -/
theorem ite_inside_succ (f : Nat → Nat) (x : Int) (n : Nat) :
    (if 0 ≤ x ∧ x < (n + 1 : Nat) then f x.toNat else 0) =
      (if 0 ≤ x ∧ x < n then f x.toNat else 0) + if x = n then f n else 0 := by
  by_cases h : x = n
  · subst h
    simp
  · simp only [if_neg h, show x < (n + 1 : Nat) ↔ x < n by omega]
    rfl

/-- The indices at distance at most 1, by distance and by offset. -/
theorem sumRange_near (f : Nat → Nat) (n k : Nat) :
    (sumRange n fun r => if r ≤ k + 1 ∧ k ≤ r + 1 then f r else 0) =
      (unitOffsets.map fun d => if 0 ≤ (k : Int) + d ∧ (k : Int) + d < n then f ((k : Int) + d).toNat else 0).sum := by
  induction n with
  | zero =>
    have h (x : Int) : ¬ (0 ≤ x ∧ x < (0 : Nat)) := by omega
    simp only [if_neg (h _)]
    rfl
  | succ n ih =>
    have hnear : (if n ≤ k + 1 ∧ k ≤ n + 1 then f n else 0) =
        (unitOffsets.map fun d => if (k : Int) + d = n then f n else 0).sum := by
      simp only [unitOffsets, List.map_cons, List.map_nil, List.sum_cons, List.sum_nil]
      split_ifs <;> omega
    rw [sumRange_succ, ih, hnear, ← List.sum_map_add]
    simp only [ite_inside_succ]

/-- Another cell of the colour of a cell. -/
def isLike (g : Grid) (p q : Nat × Nat) : Bool := q != p && g.isDark q.1 q.2 == g.isDark p.1 p.2

/-- The like neighbour at an offset is another cell of the colour, inside the grid. -/
theorem likeNeighbour_eq (g : Grid) (mc row col : Nat) (r c : Int) :
    likeNeighbour g mc row col r c =
      (decide (0 ≤ (row : Int) + r ∧ (row : Int) + r < mc) && decide (0 ≤ (col : Int) + c ∧ (col : Int) + c < mc) &&
        isLike g (row, col) (((row : Int) + r).toNat, ((col : Int) + c).toNat)) := by
  unfold likeNeighbour isLike
  dsimp only
  by_cases hr : 0 ≤ (row : Int) + r ∧ (row : Int) + r < mc
  · rw [if_neg (by omega), decide_eq_true hr]
    by_cases hc : 0 ≤ (col : Int) + c ∧ (col : Int) + c < mc
    · rw [if_neg (by omega), decide_eq_true hc]
      have hself : (((row : Int) + r).toNat, ((col : Int) + c).toNat) = (row, col) ↔ r = 0 ∧ c = 0 := by
        rw [Prod.mk.injEq]
        omega
      by_cases h0 : r = 0 ∧ c = 0
      · rw [if_pos h0, hself.mpr h0]
        simp
      · rw [if_neg h0, bne_iff_ne.mpr (mt hself.mp h0)]
        rfl
    · rw [if_pos (by omega), decide_eq_false hc]
      rfl
  · rw [if_pos (by omega), decide_eq_false hr]
    rfl

/-- A condition on the row alone. -/
theorem sum_map_ite_const {α : Type} (P : Prop) [Decidable P] (l : List α) (f : α → Nat) :
    (l.map fun a => if P then f a else 0).sum = if P then (l.map f).sum else 0 := by
  split <;> simp

theorem likeNeighbours_eq_sameAround (g : Grid) (mc row col : Nat) :
    likeNeighbours g mc row col = sameAround g mc (row, col) := by
  have hlike (r c : Nat) : (if (r, c) != (row, col) && r ≤ row + 1 && row ≤ r + 1 && c ≤ col + 1 && col ≤ c + 1 &&
        (g.isDark r c == g.isDark row col) then 1 else 0) =
      if r ≤ row + 1 ∧ row ≤ r + 1 then
        if c ≤ col + 1 ∧ col ≤ c + 1 then if isLike g (row, col) (r, c) then 1 else 0 else 0
      else 0 := by
    simp only [isLike, Bool.and_eq_true, decide_eq_true_eq]
    split_ifs <;> tauto
  calc likeNeighbours g mc row col
      = (unitOffsets.map fun r =>
          (unitOffsets.map fun c => if likeNeighbour g mc row col r c then 1 else 0).sum).sum := by
        simp only [← mul_length_filter, Nat.one_mul]
        rfl
    _ = sumRange mc fun r => if r ≤ row + 1 ∧ row ≤ r + 1 then
          sumRange mc fun c => if c ≤ col + 1 ∧ col ≤ c + 1 then if isLike g (row, col) (r, c) then 1 else 0 else 0
        else 0 := by
        simp only [sumRange_near]
        simp only [likeNeighbour_eq, Bool.and_eq_true, decide_eq_true_eq, ite_and, sum_map_ite_const]
    _ = sameAround g mc (row, col) := by
        rw [sameAround, ← Nat.one_mul (List.length _), mul_count_positions]
        refine sumRange_congr fun r _ => ?_
        simp only [hlike]
        exact (sum_map_ite_const _ _ _).symm

theorem partA_eq_penaltyA (g : Grid) (mc : Nat) : partA g mc = penaltyA g mc := by
  rw [penaltyA, sum_map_positions]
  refine sumRange_congr fun row _ => sumRange_congr fun col _ => ?_
  rw [likeNeighbours_eq_sameAround]
  dsimp only
  split_ifs <;> omega

/-! ## Parts (b) and (c): blocks and finder-like runs -/

/-- A block without dark modules or with four is of one colour. -/
theorem uniform_iff : ∀ a b c d : Bool, (a.toNat + b.toNat + c.toNat + d.toNat = 0 ∨
    a.toNat + b.toNat + c.toNat + d.toNat = 4) ↔ (a == b && a == c && a == d) = true := by decide

theorem partB_eq_penaltyB (g : Grid) (mc : Nat) : partB g mc = penaltyB g mc := by
  rw [penaltyB, mul_count_positions]
  exact sumRange_congr fun row _ => sumRange_congr fun col _ => if_congr (uniform_iff _ _ _ _) rfl rfl

/-- The colouring of the seven modules, one by one. -/
theorem matchesRun_eq_finderLike (m : Nat → Bool) : matchesRun m = finderLike m := by
  rw [matchesRun, finderLike, finderRun, show List.range 7 = [0, 1, 2, 3, 4, 5, 6] from rfl]
  simp [Bool.and_assoc]

theorem partC_eq_penaltyC (g : Grid) (mc : Nat) : partC g mc = penaltyC g mc := by
  unfold partC penaltyC
  rw [Nat.mul_add, mul_count_positions, mul_count_positions, sumRange_comm (mc - 6) mc]
  simp only [matchesRun_eq_finderLike]

/-! ## Part (d): the dark modules -/

theorem darkCount_eq_darkModules {g : Grid} {mc : Nat} (hg : g.square mc) : darkCount g mc = darkModules g := by
  obtain ⟨hlen, hrow⟩ := hg
  have hcount (row : List GridCell) :
      row.count .dark = sumRange row.length fun c => (row.getD c .unset == .dark).toNat := by
    rw [← sum_map_eq_sumRange row .unset fun cell => (cell == .dark).toNat, List.count_eq_length_filter,
      ← Nat.one_mul (List.length _), mul_length_filter]
    simp only [Bool.toNat, Bool.cond_eq_ite]
  rw [darkModules, sum_map_eq_sumRange g [], hlen]
  refine sumRange_congr fun r hr => ?_
  have hr' : (g.getD r []).length = mc := hrow _ (by
    rw [List.getD_eq_getElem _ _ (hlen.symm ▸ hr)]
    exact List.getElem_mem _)
  rw [hcount, hr']
  rfl

theorem partD_eq_penaltyD {g : Grid} {mc : Nat} (hg : g.square mc) : partDNumerator g mc = penaltyD g mc := by
  rw [partDNumerator, penaltyD, darkCount_eq_darkModules hg]
  generalize darkModules g = n
  have hcast : (mc : Int) ^ 2 = ((mc ^ 2 : Nat) : Int) := by push_cast; rfl
  rw [hcast]
  omega

/-! ## The command -/

theorem bodyScore_resolved {s : State} (h : s.phase.resolved = true) :
    bodyScore s = .ok (s.writeScore (lostPoint s.grid s.modCnt)) := by
  rw [bodyScore, h]
  rfl

/-- Settles O49: the four loops count what the four penalties count, on a grid that is a square. -/
theorem scoreCountsTheFourPenalties : Obligations.ScoreCountsTheFourPenalties := by
  unfold Obligations.ScoreCountsTheFourPenalties
  refine ⟨by decide, fun s hf hs => ⟨fun hp => ?_, fun hp => ?_⟩⟩
  · obtain ⟨-, hsquare, -⟩ := hs
    have hresolved : s.phase.resolved = true := by rcases hp with h | h <;> rw [h] <;> rfl
    rw [← partA_eq_penaltyA, ← partB_eq_penaltyB, ← partC_eq_penaltyC, ← partD_eq_penaltyD hsquare]
    exact exec_of_ok (i := .score) nofun hf (bodyScore_resolved hresolved)
  · refine exec_of_raise (i := .score) nofun rfl hf ?_
    rcases hp with h | h <;> rw [bodyOf, bodyScore, h] <;> rfl

end Sys2Proof.Machine
end

section
/-! SUPPORT. The mask `MAKE` commits (rules R223, R276, R280, R281, R290): with a valid stream `MAKEIMPL` lays out the
grid from the stream, the version, the level and its operands alone, so a trial repeated after `MAKE` gives the grid and
the score it gave in the search, and the search keeps the first trial of least key. -/

namespace Sys2Proof.Machine

open Sys2Proof.Reference

/-! ## What `MAKEIMPL` lays out -/

/-- The grid of a state's stream, laid out with a mask pattern (rule R276). -/
def State.laid (s : State) (test : Bool) (p : Fin 8) : State := { s with
  modCnt := sideOf s.version.toNat
  grid := mapData (sideOf s.version.toNat) s.cw p (structuralPatterns rom (sideOf s.version.toNat) s.version.toNat
    s.level.toNat test p (Grid.blank (sideOf s.version.toNat)))
  mask := p, testF := test, phase := .dataMapped, final := false }

/-- A layout does not depend on an earlier one. -/
theorem laid_laid (s : State) (test test' : Bool) (p p' : Fin 8) :
    (s.laid test p).laid test' p' = s.laid test' p' := rfl

@[simp] theorem laid_version (s : State) (test : Bool) (p : Fin 8) : (s.laid test p).version = s.version := rfl
@[simp] theorem laid_dcValid (s : State) (test : Bool) (p : Fin 8) : (s.laid test p).dcValid = s.dcValid := rfl
@[simp] theorem laid_fault (s : State) (test : Bool) (p : Fin 8) : (s.laid test p).fault = s.fault := rfl
@[simp] theorem laid_phase (s : State) (test : Bool) (p : Fin 8) : (s.laid test p).phase = .dataMapped := rfl

/-- A later score replaces an earlier one. -/
theorem writeScore_writeScore (s : State) (first second : Score) :
    (s.writeScore first).writeScore second = s.writeScore second := rfl

/-- Neither a layout nor a score raises. -/
theorem laid_writeScore_fault (s : State) (test : Bool) (p : Fin 8) (sc : Score) :
    ((s.laid test p).writeScore sc).fault = s.fault := (State.writeScore_fault _ _).trans (laid_fault s test p)

/-- Preparing the data writes the bit buffer, the stream and its flag, and nothing when the stream is valid. -/
theorem ensureData_eq_ok {s t : State} (h : ensureData rom s = .ok t) :
    t = { s with bb := t.bb, cw := t.cw, dcValid := t.dcValid } ∧ (s.dcValid = true → t = s) := by
  rcases ensureData_cases s with ⟨-, he⟩ | ⟨hd, he⟩ <;> rw [he] at h
  · cases h
    exact ⟨rfl, fun _ => rfl⟩
  · refine ⟨?_, fun hd' => by rw [hd] at hd'; cases hd'⟩
    obtain ⟨u, hu, h⟩ := bind_eq_ok h
    obtain ⟨v, hv, h⟩ := bind_eq_ok h
    cases bodyOf_completes (i := .dataSeg) rfl nofun hu with
    | append => cases bodyOf_completes (i := .dataFin) rfl nofun hv with
      | append => cases bodyOf_completes (i := .rsEnc) rfl nofun h with
        | rsEnc => rfl
        | _ => contradiction
      | _ => contradiction
    | _ => contradiction

/-- `MAKEIMPL` that completes lays out a valid stream: the state's own when that is valid (rules R270, R276). -/
theorem bodyMakeimpl_eq_ok {test : Bool} {p : Fin 8} {s t : State}
    (h : bodyMakeimpl rom test (maskBits p) s = .ok t) :
    versionInRange s.version.toNat = true ∧ ∃ d : State, d.version = s.version ∧ d.dcValid = true ∧
      (s.dcValid = true → d.laid test p = s.laid test p) ∧ t = d.laid test p := by
  have hp := maskBits_toNat p
  rw [bodyMakeimpl_eq (by omega)] at h
  obtain ⟨a, ha, h₁⟩ := bind_eq_ok h
  obtain ⟨b, hb, h₂⟩ := bind_eq_ok h₁
  obtain ⟨c, hc, hmap⟩ := bind_eq_ok h₂
  cases bodyOf_completes (i := .gridInit) rfl nofun ha with
  | scalar hd | poly hd | append hd => cases hd
  | gridInit hv =>
  cases bodyOf_completes (i := .gridStruct test (maskBits p)) rfl nofun hb with
  | scalar hd | poly hd | append hd => cases hd
  | gridStruct hm _ _ _ =>
  cases bodyOf_completes (i := .gridMap (maskBits p)) rfl nofun hmap with
  | scalar hd | poly hd | append hd => cases hd
  | gridMap _ _ _ hdc =>
  obtain ⟨hframe, hkept⟩ := ensureData_eq_ok hc
  have hpat : (⟨(maskBits p).toNat, hm⟩ : Fin 8) = p := Fin.ext hp
  rw [hpat] at hframe hkept
  refine ⟨hv, { s with bb := c.bb, cw := c.cw, dcValid := c.dcValid }, rfl, hdc, fun hd => ?_, ?_⟩
  · rw [hkept hd]
  · rw [hframe]; rfl

/-- With a valid stream and a version of the tables `MAKEIMPL` is the layout of the stream. -/
theorem bodyMakeimpl_laid {s : State} (hv : versionInRange s.version.toNat = true) (hd : s.dcValid = true)
    (test : Bool) (p : Fin 8) : bodyMakeimpl rom test (maskBits p) s = .ok (s.laid test p) := by
  obtain ⟨t, ht, -⟩ := bodyMakeimpl_of_valid (test := test) (p := p) hv hd
  obtain ⟨-, d, -, -, hlaid, rfl⟩ := bodyMakeimpl_eq_ok ht
  rw [ht, hlaid hd]

/-! ## The search -/

/-- The trial of a pattern over a state's stream (rule R280). -/
def trialOf (d : State) (p : Fin 8) : Trial := ⟨p, lostPoint (d.laid true p).grid (sideOf d.version.toNat)⟩

/-- The key of a trial (rules R221, R223). -/
def trialKey (d : State) (p : Fin 8) : Nat := (trialOf d p).score.key (sideOf d.version.toNat)

theorem betterTrial_trialOf (d : State) (p q : Fin 8) :
    betterTrial (sideOf d.version.toNat) (trialOf d p) (trialOf d q) =
      if trialKey d p > trialKey d q then trialOf d q else trialOf d p := rfl

/-- The best of a trial and those of the patterns after it, in their order (rules R223, R280). -/
def bestOf (d : State) (ps : List (Fin 8)) (best : Trial) : Trial :=
  ps.foldl (fun best p => betterTrial (sideOf d.version.toNat) best (trialOf d p)) best

theorem bestOf_cons (d : State) (p : Fin 8) (ps : List (Fin 8)) (best : Trial) :
    bestOf d (p :: ps) best = bestOf d ps (betterTrial (sideOf d.version.toNat) best (trialOf d p)) := rfl

/-- The trials of the remaining patterns over a valid stream. -/
theorem runTrials_laid {d : State} (hv : versionInRange d.version.toNat = true) (hd : d.dcValid = true)
    (ps : List (Fin 8)) (q : Fin 8) (best : Trial) :
    ∃ q', runTrials rom ps (d.laid true q) best = .ok (d.laid true q', bestOf d ps best) := by
  induction ps generalizing q best with
  | nil => exact ⟨q, rfl⟩
  | cons p ps ih =>
    obtain ⟨q', h⟩ := ih p (betterTrial (sideOf d.version.toNat) best (trialOf d p))
    refine ⟨q', ?_⟩
    rw [runTrials, runTrial, bodyMakeimpl_laid (s := d.laid true q) hv hd, laid_laid]
    exact h

/-- `q` has the least key, and is the first pattern that has it (rule R223). -/
def isFirstBest (d : State) (q : Fin 8) : Prop :=
  ∀ p, trialKey d q ≤ trialKey d p ∧ (p < q → trialKey d q < trialKey d p)

/-- The best of trials taken in ascending order, replaced only by a smaller key, is the first of least key. -/
theorem bestOf_isFirstBest (d : State) (ps : List (Fin 8)) (a : Fin 8) (hsorted : (a :: ps).Pairwise (· < ·)) :
    ∃ q ∈ a :: ps, bestOf d ps (trialOf d a) = trialOf d q ∧
      ∀ p ∈ a :: ps, trialKey d q ≤ trialKey d p ∧ (p < q → trialKey d q < trialKey d p) := by
  induction ps generalizing a with
  | nil => exact ⟨a, by simp, rfl, by simp⟩
  | cons b ps ih =>
    obtain ⟨ha, hb⟩ := List.pairwise_cons.mp hsorted
    have hab : a < b := ha b (by simp)
    rw [bestOf_cons, betterTrial_trialOf]
    by_cases hkey : trialKey d a > trialKey d b
    · obtain ⟨q, hq, hfold, hleast⟩ := ih b hb
      refine ⟨q, List.mem_cons_of_mem _ hq, by rw [← hfold, if_pos hkey], fun p hp => ?_⟩
      obtain rfl | hp := List.mem_cons.mp hp
      · have hlt := (hleast b (by simp)).1.trans_lt hkey
        exact ⟨hlt.le, fun _ => hlt⟩
      · exact hleast p hp
    · have hsub : (a :: ps).Sublist (a :: b :: ps) := by simp
      obtain ⟨q, hq, hfold, hleast⟩ := ih a (hsorted.sublist hsub)
      refine ⟨q, hsub.subset hq, by rw [← hfold, if_neg hkey], fun p hp => ?_⟩
      have hmin := hleast a (by simp)
      obtain rfl | rfl | hp : p = a ∨ p = b ∨ p ∈ ps := by simpa using hp
      · exact hmin
      · exact ⟨hmin.1.trans (Nat.not_lt.mp hkey), fun hlt => (hmin.2 (hab.trans hlt)).trans_le (Nat.not_lt.mp hkey)⟩
      · exact hleast p (List.mem_cons_of_mem _ hp)

/-- The search ends with a layout of a valid stream and the first of its best trials (rule R280). -/
theorem selectMask_eq_ok {s t : State} {best : Trial} (h : selectMask rom s = .ok (t, best)) :
    ∃ (d : State) (p q : Fin 8), versionInRange d.version.toNat = true ∧ d.dcValid = true ∧ isFirstBest d q ∧
      t = d.laid true p ∧ best = trialOf d q := by
  obtain ⟨⟨u, first⟩, hfirst, h⟩ := bind_eq_ok h
  obtain ⟨v, hlaid, hfirst⟩ := bind_eq_ok hfirst
  obtain ⟨hv, d, hversion, hd, -, rfl⟩ := bodyMakeimpl_eq_ok hlaid
  cases hfirst
  rw [← hversion] at hv
  obtain ⟨p, htrials⟩ := runTrials_laid hv hd [1, 2, 3, 4, 5, 6, 7] 0 (trialOf d 0)
  obtain ⟨q, -, hfold, hleast⟩ := bestOf_isFirstBest d [1, 2, 3, 4, 5, 6, 7] 0 (by decide)
  cases htrials.symm.trans h
  exact ⟨d, p, q, hv, hd, fun p => hleast p ((by decide : ∀ p : Fin 8, p ∈ [0, 1, 2, 3, 4, 5, 6, 7]) p), rfl, hfold⟩

/-! ## `MAKE` -/

/-- What `MAKE` leaves of a valid stream and the pattern it commits (rule R281). -/
def State.committed (d : State) (q : Fin 8) : State :=
  ({ d.laid false q with phase := .finalized, final := true } : State).writeScore (trialOf d q).score

@[simp] theorem committed_version (d : State) (q : Fin 8) : (d.committed q).version = d.version := by
  simp only [State.committed, State.writeScore_version, laid_version]
@[simp] theorem committed_dcValid (d : State) (q : Fin 8) : (d.committed q).dcValid = d.dcValid := by
  simp only [State.committed, State.writeScore_dcValid, laid_dcValid]
@[simp] theorem committed_fault (d : State) (q : Fin 8) : (d.committed q).fault = d.fault := by
  simp only [State.committed, State.writeScore_fault, laid_fault]
@[simp] theorem committed_modCnt (d : State) (q : Fin 8) : (d.committed q).modCnt = sideOf d.version.toNat := rfl
@[simp] theorem committed_mask (d : State) (q : Fin 8) : (d.committed q).mask = q := rfl
@[simp] theorem committed_scoreN (d : State) (q : Fin 8) :
    (d.committed q).scoreN = countWord (trialOf d q).score.n := rfl
@[simp] theorem committed_scoreF (d : State) (q : Fin 8) :
    (d.committed q).scoreF = countWord (trialOf d q).score.f := rfl

theorem bodyGridFin_laid (d : State) (q : Fin 8) :
    bodyGridFin (d.laid false q) = .ok { d.laid false q with phase := .finalized, final := true } := rfl

/-- A layout after `MAKE` is the layout of its stream, beside the committed score. -/
theorem laid_committed (d : State) (q : Fin 8) (test : Bool) (p : Fin 8) :
    (d.committed q).laid test p = (d.laid test p).writeScore (trialOf d q).score := by
  simp only [State.committed, State.laid, State.writeScore]

/-- `MAKE` that completes commits the first of the best trials. -/
theorem bodyMake_eq_ok {s t : State} (h : bodyMake rom s = .ok t) :
    ∃ (d : State) (q : Fin 8), versionInRange d.version.toNat = true ∧ d.dcValid = true ∧ isFirstBest d q ∧
      t = d.committed q := by
  obtain ⟨a, -, h⟩ := bind_eq_ok h
  obtain ⟨b, -, h⟩ := bind_eq_ok h
  obtain ⟨⟨c, best⟩, hselect, h⟩ := bind_eq_ok h
  obtain ⟨d, p, q, hv, hd, hbest, rfl, rfl⟩ := selectMask_eq_ok hselect
  obtain ⟨e, hlaid, h⟩ := bind_eq_ok h
  obtain ⟨f, hfin, h⟩ := bind_eq_ok h
  cases (bodyMakeimpl_laid (s := d.laid true p) hv hd false q).symm.trans hlaid
  cases (bodyGridFin_laid d q).symm.trans hfin
  exact ⟨d, q, hv, hd, hbest, (Except.ok.inj h).symm⟩

/-- `MAKEIMPL` after `MAKE` lays out the committed stream. -/
theorem exec_makeimpl_committed {d : State} {q : Fin 8} (hf : d.fault = false)
    (hv : versionInRange d.version.toNat = true) (hd : d.dcValid = true) (test : Bool) (p : Fin 8) :
    exec (.makeimpl test (maskBits p)) (d.committed q) = .next ((d.laid test p).writeScore (trialOf d q).score) := by
  rw [← laid_committed]
  exact exec_of_ok nofun ((committed_fault d q).trans hf)
    (bodyMakeimpl_laid (by rwa [committed_version]) (by rwa [committed_dcValid]) test p)

/-- A trial repeated after `MAKE`: `MAKEIMPL` with `test`, then `SCORE`. -/
theorem runCommands_trial {d : State} {q : Fin 8} (hf : d.fault = false) (hv : versionInRange d.version.toNat = true)
    (hd : d.dcValid = true) (p : Fin 8) :
    runCommands [.makeimpl true (maskBits p), .score] (d.committed q) =
      .next ((d.laid true p).writeScore (trialOf d p).score) := by
  have hresolved : ((d.laid true p).writeScore (trialOf d q).score).phase.resolved = true := by
    rw [State.writeScore_phase, laid_phase]
    rfl
  have hbody := bodyScore_resolved hresolved
  rw [State.writeScore_grid, State.writeScore_modCnt, writeScore_writeScore] at hbody
  have hscore := exec_of_ok (i := .score) nofun ((laid_writeScore_fault d true p _).trans hf) hbody
  rw [runCommands_cons (exec_makeimpl_committed hf hv hd true p), runCommands_cons hscore]
  rfl

/-- The scores of a grid of the unit do not overflow their registers (rules R52, R221). -/
theorem scoreKey_writeScore {sc : Score} (h : sc.within Config.gridMax) (s : State) (mc : Nat) :
    scoreKey (s.writeScore sc) mc = sc.key mc := by
  obtain ⟨hn, hf⟩ := h
  have hbound : scoreBoundN Config.gridMax < 2 ^ 32 ∧ 100 * Config.gridMax ^ 2 < 2 ^ 32 := by decide
  have hN : (s.writeScore sc).scoreN.toNat = sc.n := Nat.mod_eq_of_lt (hn.trans_lt hbound.1)
  have hF : (s.writeScore sc).scoreF.toNat = sc.f := Nat.mod_eq_of_lt (hf.trans_lt hbound.2)
  rw [scoreKey, hN, hF, Score.key]

/-- The key of a trial is the one the registers show after it. -/
theorem scoreKey_trial {d : State} (hv : versionInRange d.version.toNat = true) (p : Fin 8) (s : State) :
    scoreKey (s.writeScore (trialOf d p).score) (sideOf d.version.toNat) = trialKey d p :=
  scoreKey_writeScore ((lostPoint_within _ _).mono (legalSide_bounds (legalSide_sideOf hv)).2.2) s _

/-- Settles O58: a trial after `MAKE` is the one of the search, whose first best it committed, and the layout without
`test` is the committed grid. -/
theorem makeCommitsTheBestMask : Obligations.MakeCommitsTheBestMask := by
  unfold Obligations.MakeCommitsTheBestMask
  intro s t hs h ht
  obtain ⟨hi, -⟩ | ⟨-, hfault, -⟩ | ⟨-, -, hb⟩ | ⟨-, -, e, -, rfl⟩ := exec_cases h
  · cases hi
  · rw [hs] at hfault; cases hfault
  · obtain ⟨d, q, hv, hd, hbest, rfl⟩ := bodyMake_eq_ok hb
    have hf : d.fault = false := (committed_fault d q).symm.trans ht
    refine ⟨fun p => ⟨_, runCommands_trial hf hv hd p, (laid_writeScore_fault d true p _).trans hf, ?_⟩,
      exec_makeimpl_committed hf hv hd false q⟩
    have hcommitted : scoreKey (d.committed q) (d.committed q).modCnt = trialKey d q := scoreKey_trial hv q _
    have htrial : scoreKey ((d.laid true p).writeScore (trialOf d p).score) (d.committed q).modCnt = trialKey d p :=
      scoreKey_trial hv p _
    rw [hcommitted, htrial, committed_mask, committed_scoreN, committed_scoreF]
    obtain ⟨hle, hlt⟩ := hbest p
    exact ⟨hle, hlt, fun hp => by rw [hp]; exact ⟨rfl, rfl⟩⟩
  · cases ht

end Sys2Proof.Machine
end

section
/-! SUPPORT. The stepwise grid commands (rules R250, R251, R268, R275, R287): when each completes, when it raises, and
how the phase moves. -/

namespace Sys2Proof.Machine

open Sys2Proof.Reference

/-! ## Allocation and structure -/

/-- Settles O50: the version is checked, and a blank grid of its side allocated. -/
theorem gridInitAllocatesABlankGrid : Obligations.GridInitAllocatesABlankGrid := by
  unfold Obligations.GridInitAllocatesABlankGrid
  refine ⟨by decide, fun s hf => ?_⟩
  obtain ⟨hv, hbody⟩ | ⟨hv, hbody⟩ := bodyGridInit_cases s
  · exact ⟨fun h => absurd ((versionInRange_iff _).mp hv) h, fun _ => exec_of_ok (i := .gridInit) nofun hf hbody⟩
  · have hout : ¬ versionLegal s := fun h => by rw [(versionInRange_iff _).mpr h] at hv; cases hv
    exact ⟨fun _ => exec_of_raise (i := .gridInit) nofun rfl hf hbody, fun h => absurd h hout⟩

/-- Settles O51: the mask pattern is checked before the phase, the grid and the version, and what passes the checks is
laid out. -/
theorem gridStructCompletesOrFaults : Obligations.GridStructCompletesOrFaults := by
  unfold Obligations.GridStructCompletesOrFaults
  refine fun test mask => ⟨by revert test mask; decide, fun s hf => ?_⟩
  dsimp only
  rw [← phase_code_eq]
  obtain ⟨hm, hbody⟩ | ⟨hm, hwrong, hbody⟩ | ⟨hm, hp, h0, hv, hbody⟩ := bodyGridStruct_cases test mask s
  · exact ⟨fun _ => exec_of_raise nofun rfl hf hbody, fun h => absurd h (Nat.not_lt.mpr hm),
      fun m h => absurd (h ▸ m.isLt) (Nat.not_lt.mpr hm)⟩
  · refine ⟨fun h => absurd hm (Nat.not_lt.mpr h), fun _ _ => exec_of_raise nofun rfl hf hbody, fun m _ hp h0 hv => ?_⟩
    exact hwrong.elim (absurd hp) fun h => h.elim (absurd · h0) (absurd hv)
  · refine ⟨fun h => absurd hm (Nat.not_lt.mpr h), fun _ h => ?_, fun m h _ _ _ => ?_⟩
    · exact (h.elim (absurd hp) fun h => h.elim (absurd · h0) (absurd hv))
    · rw [← Fin.ext (a := ⟨mask.toNat, hm⟩) h]
      exact ⟨_, exec_of_ok nofun hf hbody⟩

/-! ## The commit and the query -/

/-- `Q.DARK` checks the row, the column and the phase in that order (rule R287). -/
theorem bodyQDark_cases (rd ra rb : XReg) (s : State) :
    ((s.readX ra < 0 ∨ s.modCnt ≤ s.readX ra) ∧ bodyQDark rd ra rb s = raise s .coordinate (s.readX ra)) ∨
    ((0 ≤ s.readX ra ∧ s.readX ra < s.modCnt) ∧ (s.readX rb < 0 ∨ s.modCnt ≤ s.readX rb) ∧
      bodyQDark rd ra rb s = raise s .coordinate (s.readX rb)) ∨
    ((0 ≤ s.readX ra ∧ s.readX ra < s.modCnt) ∧ (0 ≤ s.readX rb ∧ s.readX rb < s.modCnt) ∧
      s.phase.resolved = false ∧ bodyQDark rd ra rb s = raise s .sequenceError s.phase.code) ∨
    ((0 ≤ s.readX ra ∧ s.readX ra < s.modCnt) ∧ (0 ≤ s.readX rb ∧ s.readX rb < s.modCnt) ∧
      s.phase.resolved = true ∧ bodyQDark rd ra rb s =
        .ok (s.writeX rd (boolValue (s.grid.isDark (s.readX ra).toNat (s.readX rb).toNat)))) := by
  unfold bodyQDark
  dsimp only
  split
  next hrow => exact .inl ⟨hrow, rfl⟩
  next hrow =>
    rw [not_or, Int.not_lt, Int.not_le] at hrow
    split
    next hcol => exact .inr (.inl ⟨hrow, hcol, rfl⟩)
    next hcol =>
      rw [not_or, Int.not_lt, Int.not_le] at hcol
      cases hp : s.phase.resolved
      · exact .inr (.inr (.inl ⟨hrow, hcol, rfl, rfl⟩))
      · exact .inr (.inr (.inr ⟨hrow, hcol, rfl, rfl⟩))

/-- A phase is resolved or one of the first two. -/
theorem resolved_iff (p : Phase) : p.resolved = true ↔ p = .dataMapped ∨ p = .finalized := by cases p <;> decide

/-- A colour as a register holds it. -/
theorem toWord_isDark (g : Grid) (r c : Nat) : toWord (boolValue (g.isDark r c)) =
    if g.cell r c = .dark then 1 else 0 := by
  unfold Grid.isDark
  cases g.cell r c <;> rfl

/-- Settles O54: the checks of the two commands, in their order, and what they do behind them. -/
theorem commitAndQueryTheGrid : Obligations.CommitAndQueryTheGrid := by
  unfold Obligations.CommitAndQueryTheGrid
  refine ⟨⟨by decide, fun s hf => ?_⟩, fun rd ra rb => ⟨by simp [encode, packFields_eq_commandWord], fun s hf => ?_⟩⟩
  · rw [← phase_code_eq]
    obtain ⟨hp, ht, hbody⟩ | ⟨hwrong, hbody⟩ := bodyGridFin_cases s
    · refine ⟨fun _ _ => exec_of_ok (i := .gridFin) nofun hf hbody, fun h => ?_⟩
      exact h.elim (absurd hp) fun h => absurd h (by rw [ht]; nofun)
    · refine ⟨fun hp ht => ?_, fun _ => exec_of_raise (i := .gridFin) nofun rfl hf hbody⟩
      exact hwrong.elim (absurd hp) fun h => absurd h (by rw [ht]; nofun)
  · have hread (r : XReg) : s.x[r].toInt = s.readX r := rfl
    simp only [hread, ← phase_code_eq]
    obtain ⟨hr, hbody⟩ | ⟨hr, hc, hbody⟩ | ⟨hr, hc, hp, hbody⟩ | ⟨hr, hc, hp, hbody⟩ := bodyQDark_cases rd ra rb s
    · exact ⟨fun _ => exec_of_raise nofun rfl hf hbody, fun _ _ => False.elim (by omega),
        fun _ _ => False.elim (by omega)⟩
    · exact ⟨fun _ => False.elim (by omega), fun _ _ _ => exec_of_raise nofun rfl hf hbody,
        fun _ _ _ _ => False.elim (by omega)⟩
    · refine ⟨fun _ => False.elim (by omega), fun _ _ _ => False.elim (by omega), fun _ _ _ _ =>
        ⟨fun _ => exec_of_raise nofun rfl hf hbody, fun h => ?_⟩⟩
      rw [(resolved_iff _).mpr h] at hp
      cases hp
    · refine ⟨fun _ => False.elim (by omega), fun _ _ _ => False.elim (by omega), fun _ _ _ _ =>
        ⟨fun h => ?_, fun _ => ?_⟩⟩
      · rcases h with h | h <;> rw [h] at hp <;> cases hp
      · rw [← toWord_isDark]
        exact exec_of_ok nofun hf hbody

/-! ## The phase -/

/-- A four-bit mask field below 8 is the field of a pattern. -/
theorem maskBits_of_lt {mask : BitVec 4} (h : mask.toNat < 8) : maskBits ⟨mask.toNat, h⟩ = mask :=
  BitVec.eq_of_toNat_eq (maskBits_toNat _)

/-- `MAKEIMPL` that completes has a mask pattern. -/
theorem mask_lt_of_makeimpl {test : Bool} {mask : BitVec 4} {s t : State}
    (h : bodyMakeimpl rom test mask s = .ok t) : mask.toNat < 8 := by
  by_contra hm
  obtain ⟨p, hp, -⟩ := bind_eq_ok h
  rw [maskOperand_illegal (Nat.not_lt.mp hm)] at hp
  exact raise_ne_ok hp

/-- The commands of the orchestrator's table (rule R250), and `RESET`. -/
def isOrchestrator : Instr → Bool
  | .gridInit | .gridStruct _ _ | .gridMap _ | .gridFin | .makeimpl _ _ | .make | .reset => true
  | _ => false

/-- The phase, the side and the grid are those of another state. -/
def State.SameGrid (s t : State) : Prop := t.phase = s.phase ∧ t.modCnt = s.modCnt ∧ t.grid = s.grid

theorem sameGrid_completes {i : Instr} {s t : State} (hi : isOrchestrator i = false) (h : Completes s i t) :
    s.SameGrid t := by
  cases h with
  | csrw hw => rw [csrWrite_hostPart hw]; exact ⟨rfl, rfl, rfl⟩
  | reset | gridInit | gridStruct | gridMap | gridFin => cases hi
  | nop | scalar | poly | bbClr | append | segEnc | rsBlocks | rsEnc | score => exact ⟨rfl, rfl, rfl⟩

theorem sameGrid_of_ok {i : Instr} {s t : State} (hi : isOrchestrator i = false) (h : bodyOf i s = .ok t) :
    s.SameGrid t := by
  have hparts : i.isMakeimpl = false ∧ i ≠ .make := by
    cases i with
    | makeimpl | make => cases hi
    | _ => exact ⟨rfl, nofun⟩
  exact sameGrid_completes hi (bodyOf_completes hparts.1 hparts.2 h)

/-- `MAKEIMPL` ends with its `GRID.MAP` (rule R276). -/
theorem phase_of_makeimpl {test : Bool} {mask : BitVec 4} {s t : State} (h : bodyMakeimpl rom test mask s = .ok t) :
    t.phase = .dataMapped ∧ t.modCnt = sideOf s.version.toNat := by
  rw [← maskBits_of_lt (mask_lt_of_makeimpl h)] at h
  obtain ⟨-, d, hversion, -, -, ht⟩ := bodyMakeimpl_eq_ok h
  rw [ht, ← hversion]
  exact ⟨rfl, rfl⟩

/-- Settles O21: each command of the table moves the phase as its row has it, the composite ones to the end of their
steps; every other command leaves the grid and its phase; and each step checks the phase before it. -/
theorem phaseMovesOnlyAsListed : Obligations.PhaseMovesOnlyAsListed := by
  unfold Obligations.PhaseMovesOnlyAsListed
  refine ⟨fun i s t hf h => ?_, fun s test mask hf hm => ?_, fun s => ⟨rfl, rfl⟩⟩
  · obtain ⟨rfl, rfl⟩ | ⟨-, hfault, -⟩ | ⟨hr, -, hb⟩ | ⟨-, -, e, -, rfl⟩ := exec_cases h
    · exact ⟨nofun, fun _ => ⟨rfl, rfl⟩⟩
    · rw [hf] at hfault; cases hfault
    · refine ⟨fun ht => ?_, fun _ => ?_⟩
      · rw [(sameRecord_of_ok hb).1, hf] at ht; cases ht
      · cases i with
        | reset => exact absurd rfl hr
        | gridInit =>
          obtain ⟨-, h⟩ | ⟨-, h⟩ := bodyGridInit_cases s <;> cases h.symm.trans hb
          exact ⟨rfl, rfl, rfl⟩
        | gridStruct test mask =>
          obtain ⟨-, h⟩ | ⟨-, -, h⟩ | ⟨_, hp, -, hv, h⟩ := bodyGridStruct_cases test mask s <;> cases h.symm.trans hb
          exact ⟨hp, hv, rfl, rfl⟩
        | gridMap mask =>
          obtain ⟨-, h⟩ | ⟨-, -, h⟩ | ⟨hm, hp, hv, hd, h⟩ := bodyGridMap_cases mask s <;> cases h.symm.trans hb
          exact ⟨hp, hv, hm, hd, rfl, rfl⟩
        | gridFin =>
          obtain ⟨hp, ht, h⟩ | ⟨-, h⟩ := bodyGridFin_cases s <;> cases h.symm.trans hb
          exact ⟨hp, ht, rfl, rfl, rfl⟩
        | makeimpl test mask => exact phase_of_makeimpl hb
        | make =>
          obtain ⟨d, q, -, -, -, rfl⟩ := bodyMake_eq_ok hb
          exact ⟨rfl, rfl⟩
        | _ => exact sameGrid_of_ok rfl hb
    · exact ⟨fun _ => ⟨rfl, rfl⟩, nofun⟩
  · simp only [← phase_code_eq]
    refine ⟨fun hp => ?_, fun hp => ?_, fun hp => ?_⟩
    · obtain ⟨hge, -⟩ | ⟨-, -, hbody⟩ | ⟨-, hempty, -⟩ := bodyGridStruct_cases test mask s
      · omega
      · exact exec_of_raise nofun rfl hf hbody
      · exact absurd hempty hp
    · obtain ⟨hge, -⟩ | ⟨-, -, hbody⟩ | ⟨-, hplaced, -⟩ := bodyGridMap_cases mask s
      · omega
      · exact exec_of_raise nofun rfl hf hbody
      · exact absurd hplaced hp
    · obtain ⟨hmapped, -⟩ | ⟨-, hbody⟩ := bodyGridFin_cases s
      · exact absurd hmapped hp
      · exact exec_of_raise nofun rfl hf hbody

end Sys2Proof.Machine
end

section
/-! SUPPORT. `MAKEIMPL` as the sequence of its commands (rules R270, R276): a run that does not end in a fault is the
sequence of the rules, and what those rules leave of a stream that has to be computed first. -/

namespace Sys2Proof.Machine

open Sys2Proof.Reference

/-! ## Runs without a fault -/

/-- A command that does not end in a fault is its rule. -/
theorem ok_of_exec {i : Instr} {s t : State} (hi : i ≠ .reset) (h : exec i s = .next t) (ht : t.fault = false) :
    bodyOf i s = .ok t := by
  obtain ⟨hr, -⟩ | ⟨-, hf, rfl⟩ | ⟨-, -, hb⟩ | ⟨-, -, e, -, rfl⟩ := exec_cases h
  · exact absurd hr hi
  · rw [hf] at ht; cases ht
  · exact hb
  · cases ht

/-- A faulted unit stays as it is (rule R331). -/
theorem runCommands_of_faulted {is : List Instr} {s : State} (hr : .reset ∉ is) (hf : s.fault = true) :
    runCommands is s = .next s := by
  induction is with
  | nil => rfl
  | cons i is ih =>
    obtain ⟨hi, hr⟩ := not_or.mp (mt List.mem_cons.mpr hr)
    rw [runCommands_cons (t := s) (by rw [exec_eq i s (Ne.symm hi), complete_of_faulted hf])]
    exact ih hr

/-- A run that does not end in a fault is the sequence of its commands' rules. -/
theorem foldlM_of_runCommands {is : List Instr} {s t : State} (hr : .reset ∉ is) (h : runCommands is s = .next t)
    (ht : t.fault = false) : is.foldlM (fun s i => bodyOf i s) s = .ok t := by
  induction is generalizing s with
  | nil => exact congrArg Except.ok (Host.Outcome.next.inj h)
  | cons i is ih =>
    obtain ⟨hi, hr⟩ := not_or.mp (mt List.mem_cons.mpr hr)
    have hexec := exec_eq i s (Ne.symm hi)
    rw [runCommands_cons hexec] at h
    cases hf : (complete i (outputsOf i) s (bodyOf i s)).fault with
    | true =>
      cases (runCommands_of_faulted hr hf).symm.trans h
      rw [hf] at ht; cases ht
    | false =>
      rw [List.foldlM_cons, ok_of_exec (Ne.symm hi) hexec hf]
      exact ih hr h

/-- Once the grid is structured, `MAKEIMPL` prepares the data and maps it; DCVALID is as it was (rule R276). -/
theorem bodyMakeimpl_of_structured {test : Bool} {mask : BitVec 4} {s u v : State} (hu : bodyOf .gridInit s = .ok u)
    (hv : bodyOf (.gridStruct test mask) u = .ok v) :
    v.dcValid = s.dcValid ∧ bodyMakeimpl rom test mask s = ensureData rom v >>= bodyGridMap mask := by
  obtain ⟨-, hinit⟩ | ⟨-, hinit⟩ := bodyGridInit_cases s <;> cases hinit.symm.trans hu
  obtain ⟨-, hstruct⟩ | ⟨-, -, hstruct⟩ | ⟨hm, -, -, -, hstruct⟩ := bodyGridStruct_cases test mask { s with
    modCnt := sideOf s.version.toNat, grid := Grid.blank (sideOf s.version.toNat), phase := .empty
    final := false, testF := false } <;> cases hstruct.symm.trans hv
  refine ⟨rfl, ?_⟩
  rw [bodyMakeimpl_eq hm, hinit, ok_bind, hstruct, ok_bind]

/-- Settles O56: the rules of the commands, one after another, are the rule of `MAKEIMPL`. -/
theorem makeimplIsItsSequenceOfCommands : Obligations.MakeimplIsItsSequenceOfCommands := by
  unfold Obligations.MakeimplIsItsSequenceOfCommands
  refine fun test mask s t hf ht => ⟨fun hd h => ?_, fun hd h => ?_⟩
  · obtain ⟨u, hu, h⟩ := bind_eq_ok (foldlM_of_runCommands (by simp) h ht)
    obtain ⟨v, hv, h⟩ := bind_eq_ok h
    obtain ⟨w, hmap, h⟩ := bind_eq_ok h
    obtain ⟨hdv, hmake⟩ := bodyMakeimpl_of_structured hu hv
    obtain ⟨-, hdata⟩ | ⟨hd', -⟩ := ensureData_cases v
    · refine exec_of_ok nofun hf ?_
      rw [bodyOf, hmake, hdata, ok_bind, ← h]
      exact hmap
    · rw [hdv, hd] at hd'; cases hd'
  · obtain ⟨u, hu, h⟩ := bind_eq_ok (foldlM_of_runCommands (by simp) h ht)
    obtain ⟨v, hv, h⟩ := bind_eq_ok h
    obtain ⟨hdv, hmake⟩ := bodyMakeimpl_of_structured hu hv
    obtain ⟨hd', -⟩ | ⟨-, hdata⟩ := ensureData_cases v
    · rw [hdv, hd] at hd'; cases hd'
    · obtain ⟨b, hclear, h⟩ := bind_eq_ok h
      obtain ⟨c, hseg, h⟩ := bind_eq_ok h
      obtain ⟨d, hfin, h⟩ := bind_eq_ok h
      obtain ⟨e, henc, h⟩ := bind_eq_ok h
      obtain ⟨f, hmap, hend⟩ := bind_eq_ok h
      cases hclear
      simp only [bodyOf] at hseg hfin henc
      refine exec_of_ok nofun hf ?_
      rw [bodyOf, hmake, hdata, hseg, ok_bind, hfin, ok_bind, henc, ok_bind, ← hend]
      exact hmap

end Sys2Proof.Machine
end

section
/-! SUPPORT. The data of a symbol when no stream is valid (rules R158 to R160, R186, R270): the bit buffer and the
stream as functions of the segment, the version and the level, and `MAKEIMPL` over them. -/

namespace Sys2Proof.Machine

open Sys2Proof.Reference

/-! ## The data of a segment -/

/-- What `DATA.SEG` leaves of an empty bit buffer (rule R158). -/
def State.segmentBuffer (s : State) : BitBuffer :=
  BitBuffer.empty.pushAll ([false, true, false, false] ++ msbBits s.segLen (lengthFieldWidth s.version.toNat) ++
    byteBits s.segment)

/-- What `DATA.FIN` leaves of it (rule R160). -/
def State.dataBuffer (s : State) : BitBuffer :=
  s.segmentBuffer.pushAll (finishBits (dataWords s) (segmentBits s))

/-- The stream `RS.ENC` makes of it (rule R186). -/
def State.dataStream (s : State) : List Byte :=
  match createBytes (s.dataBuffer.bytes.take (dataWords s)) (blocksOf s.version.toNat s.level.toNat) with
  | .ok out => out
  | .error _ => []

/-- The state with the data of its segment, and the stream valid (rule R270). -/
def State.withData (s : State) : State := { s with bb := s.dataBuffer, cw := s.dataStream, dcValid := true }

theorem segmentBuffer_len (s : State) : s.segmentBuffer.len = segmentBits s := by
  have hseg : s.segment.length = s.segLen := Memory.readSeq_length _ _
  simp only [State.segmentBuffer, BitBuffer.pushAll_len, List.length_append, msbBits_length, byteBits_length, hseg,
    segmentBits]
  exact Nat.zero_add _

/-- The longest segment fits the bit buffer. -/
theorem segmentBits_le {s : State} (h : s.segLen ≤ Config.segMax) : segmentBits s ≤ 8 * Config.bbMaxBytes := by
  have hmax : Config.segMax = 12291 ∧ Config.bbMaxBytes = 12294 := ⟨rfl, rfl⟩
  unfold segmentBits lengthFieldWidth
  split <;> omega

section
variable {s : State} (hv : versionLegal s) (hfits : segmentBits s ≤ 8 * dataWords s)
include hfits

theorem dataBuffer_len : s.dataBuffer.len = 8 * dataWords s := by
  rw [State.dataBuffer, BitBuffer.pushAll_len, segmentBuffer_len, finishBits_length hfits]

include hv

/-- The stream of the data is made without a fault, and has the version's total of codewords. -/
theorem dataStream_spec :
    createBytes (s.dataBuffer.bytes.take (dataWords s)) (blocksOf s.version.toNat s.level.toNat) = .ok s.dataStream ∧
      some s.dataStream.length = codewordTotals[s.version.toNat - 1]? := by
  have hl : s.level.toNat < 4 := s.level.isLt
  have hlen := dataBuffer_len hfits
  have hwell : s.dataBuffer.wellFormed :=
    (BitBuffer.pushAll_spec (BitBuffer.pushAll_spec BitBuffer.wellFormed_empty _).1 _).1
  obtain ⟨hbytes, -⟩ := hwell
  have hsize : (s.dataBuffer.bytes.take (dataWords s)).length = dataWords s := by
    rw [List.length_take]
    omega
  obtain ⟨data, checks, -, -, -, -, htotal, hout⟩ :=
    createBytes_ok (getRSBlocks_valid (getRSBlocks_eq_blocksOf hv hl)) hsize
  have hstream : s.dataStream = columnMajor 256 data ++ columnMajor 256 checks := by
    rw [State.dataStream, hout]
  exact ⟨hstream ▸ hout, by rw [hstream, htotal, totalCodewords_blocksOf hv hl]⟩

end

/-- Without a valid stream the data is computed, or is too long for the version and the level (rules R159, R270). -/
theorem ensureData_of_invalid {s : State} (hv : versionLegal s) (hseg : s.segLen ≤ Config.segMax)
    (hd : s.dcValid = false) :
    (segmentBits s ≤ 8 * dataWords s ∧ ensureData rom s = .ok s.withData) ∨
    (8 * dataWords s < segmentBits s ∧
      ensureData rom s = raise (s.withBb s.segmentBuffer) .dataOverflow (segmentBits s)) := by
  obtain ⟨hd', -⟩ | ⟨-, hdata⟩ := ensureData_cases s
  · rw [hd] at hd'; cases hd'
  have hbits := segmentBits_le hseg
  have hput : bodyDataSeg rom (s.withBb .empty) = .ok (s.withBb s.segmentBuffer) := by
    obtain ⟨hout, -⟩ | ⟨-, hfull, -⟩ | ⟨-, -, hput⟩ := bodyDataSeg_cases (s.withBb .empty)
    · exact absurd hv hout
    · exact absurd ((Nat.zero_add _).trans_le hbits) (Nat.not_le.mpr hfull)
    · exact hput
  have hfin := bodyDataFin_inside (s := s.withBb s.segmentBuffer) hv
  have hwords : dataWords (s.withBb s.segmentBuffer) = dataWords s := rfl
  have hlen := segmentBuffer_len s
  rw [hdata, hput, ok_bind, hfin, hwords, State.withBb_bb]
  by_cases hfits : segmentBits s ≤ 8 * dataWords s
  · refine .inl ⟨hfits, ?_⟩
    obtain ⟨hstream, -⟩ := dataStream_spec hv hfits
    rw [dataFinish_ok (hlen.trans_le hfits) (dataTotal_le hv s.level.isLt), hlen]
    exact bodyRsEnc_of_len_eq (s := s.withBb s.dataBuffer) hv (dataBuffer_len hfits) hstream
  · refine .inr ⟨by omega, ?_⟩
    rw [dataFinish, if_pos (by omega), hlen]
    rfl

/-! ## `MAKEIMPL` over the data -/

/-- The state `MAKEIMPL` has structured, before the data is prepared (rule R276). -/
def State.structured (s : State) (test : Bool) (p : Fin 8) : State := { s with
  modCnt := sideOf s.version.toNat
  grid := structuralPatterns rom (sideOf s.version.toNat) s.version.toNat s.level.toNat test p
    (Grid.blank (sideOf s.version.toNat))
  mask := p, testF := test, phase := .structuralPatternsPlaced, final := false }

/-- With a version of the tables `MAKEIMPL` structures the grid, prepares the data and maps it. -/
theorem bodyMakeimpl_structured {s : State} (hv : versionLegal s) (test : Bool) (p : Fin 8) :
    bodyMakeimpl rom test (maskBits p) s =
      (ensureData rom (s.structured test p) >>= bodyGridMap (maskBits p)) := by
  have hp := maskBits_toNat p
  have hinit : bodyOf .gridInit s = .ok { s with
      modCnt := sideOf s.version.toNat, grid := Grid.blank (sideOf s.version.toNat), phase := .empty
      final := false, testF := false } := by
    obtain ⟨-, h⟩ | ⟨hout, -⟩ := bodyGridInit_cases s
    · exact h
    · rw [(versionInRange_iff _).mpr hv] at hout; cases hout
  refine (bodyMakeimpl_of_structured hinit ?_).2
  obtain ⟨h, -⟩ | ⟨-, h, -⟩ | ⟨hm, -, -, -, h⟩ := bodyGridStruct_cases test (maskBits p) { s with
      modCnt := sideOf s.version.toNat, grid := Grid.blank (sideOf s.version.toNat), phase := .empty
      final := false, testF := false }
  · omega
  · exact absurd h (by simp [sideOf_ne_zero])
  · have hpat : (⟨(maskBits p).toNat, hm⟩ : Fin 8) = p := Fin.ext hp
    rw [hpat] at h
    exact h

/-- Outside the tables `MAKEIMPL` raises with its `GRID.INIT` (rules R251, R276). -/
theorem bodyMakeimpl_outside {s : State} (hv : ¬ versionLegal s) (test : Bool) (p : Fin 8) :
    bodyMakeimpl rom test (maskBits p) s = raise s .tableEntryMissing (missingIndex s) := by
  have hp := maskBits_toNat p
  rw [bodyMakeimpl_eq (by omega)]
  obtain ⟨hin, -⟩ | ⟨-, h⟩ := bodyGridInit_cases s
  · exact absurd ((versionInRange_iff _).mp hin) hv
  · rw [h]
    rfl

/-- Without a valid stream `MAKEIMPL` lays out the data of the segment, or the data is too long (rules R159, R276). -/
theorem bodyMakeimpl_of_invalid {s : State} (hv : versionLegal s) (hseg : s.segLen ≤ Config.segMax)
    (hd : s.dcValid = false) (test : Bool) (p : Fin 8) :
    (segmentBits s ≤ 8 * dataWords s ∧ bodyMakeimpl rom test (maskBits p) s = .ok (s.withData.laid test p)) ∨
    (8 * dataWords s < segmentBits s ∧ ∃ u : State, u.version = s.version ∧
      bodyMakeimpl rom test (maskBits p) s = raise u .dataOverflow (segmentBits s)) := by
  rw [bodyMakeimpl_structured hv]
  obtain ⟨hfits, hdata⟩ | ⟨hlong, hdata⟩ := ensureData_of_invalid (s := s.structured test p) hv hseg hd
  · refine .inl ⟨hfits, ?_⟩
    rw [hdata, ok_bind]
    obtain ⟨h, -⟩ | ⟨-, h, -⟩ | ⟨-, -, -, -, h⟩ := bodyGridMap_cases (maskBits p) (s.structured test p).withData
    · have := maskBits_toNat p
      omega
    · exact absurd h (by simp [State.structured, State.withData, maskBits_toNat])
    · exact h
  · exact .inr ⟨hlong, (s.structured test p).withBb (s.structured test p).segmentBuffer, rfl, by rw [hdata]; rfl⟩

/-- A layout for a version of the tables is a square grid without an `Unset` cell (rules R271, R273). -/
theorem grid_laid {s : State} (hv : versionLegal s) (test : Bool) (p : Fin 8) :
    (s.laid test p).grid.square (sideOf s.version.toNat) ∧
      ∀ row ∈ (s.laid test p).grid, ∀ c ∈ row, c ≠ .unset := by
  obtain ⟨hodd, hlarge, -⟩ := legalSide_bounds (legalSide_sideOf ((versionInRange_iff _).mpr hv))
  obtain ⟨hsquare, hset⟩ := structuralPatterns_set (version := s.version.toNat) (level := s.level.toNat) (test := test)
    (mask := p) (Grid.square_blank (sideOf s.version.toNat)) (by omega)
  have hmapped : (s.laid test p).grid.square (sideOf s.version.toNat) := square_mapData hsquare
  exact ⟨hmapped, (Grid.forall_mem_iff hmapped _).mpr fun r hr c hc =>
    mapData_set hsquare hodd (by omega) hset hr hc⟩

/-- What a fault leaves free is no control register. -/
theorem outputsOf_version (i : Instr) (c : Cause) (s : State) : (outputsOf i c s).version = s.version := by
  rcases outputsOf_cases i c s with h | ⟨-, h⟩ | ⟨-, h⟩ | ⟨-, h⟩ | ⟨-, h⟩ <;> rw [h]
  · rw [State.nextEpoch_version, State.freeBb_version]
  · rw [State.nextEpoch_version, State.freeCw_version]
  · rw [State.nextEpoch_version, State.freeCw_version, State.freeBb_version]
  · rw [State.nextEpoch_version, State.freeCw_version, State.freeBb_version, State.freeSeg_version]

/-- A command that faults, by the record that it leaves. -/
theorem exec_fault_record {i : Instr} {s u : State} {c : Cause} {info : Int} (hi : i ≠ .reset) (hf : s.fault = false)
    (hb : bodyOf i s = raise u c info) :
    ∃ t, exec i s = .next t ∧ t.fault = true ∧ t.cause = some c ∧ t.finfo = BitVec.ofInt 32 info ∧
      t.version = u.version :=
  ⟨_, exec_of_error hi hf hb, rfl, rfl, rfl, outputsOf_version i c u⟩

/-- `MAKEIMPL` completes with a valid stream or data that fits: it lays out the state's own stream, or that of its
segment (rules R270, R276). -/
theorem bodyMakeimpl_completes {s : State} (hv : versionLegal s) (hseg : s.segLen ≤ Config.segMax)
    (hdata : s.dcValid = true ∨ segmentBits s ≤ 8 * dataWords s) (test : Bool) (p : Fin 8) :
    ∃ (bb : BitBuffer) (cw : List Byte),
      bodyMakeimpl rom test (maskBits p) s =
        .ok (({ s with bb := bb, cw := cw, dcValid := true } : State).laid test p) ∧
      (s.dcValid = true → bb = s.bb ∧ cw = s.cw) ∧
      (s.dcValid = false → bb.len = 8 * dataWords s ∧ some cw.length = codewordTotals[s.version.toNat - 1]?) := by
  cases hd : s.dcValid with
  | true =>
    refine ⟨s.bb, s.cw, ?_, fun _ => ⟨rfl, rfl⟩, nofun⟩
    rw [bodyMakeimpl_laid ((versionInRange_iff _).mpr hv) hd, ← hd]
  | false =>
    have hfits := hdata.resolve_left (by rw [hd]; nofun)
    obtain ⟨-, h⟩ | ⟨hlong, -⟩ := bodyMakeimpl_of_invalid hv hseg hd test p
    · obtain ⟨-, htotal⟩ := dataStream_spec hv hfits
      exact ⟨s.dataBuffer, s.dataStream, h, nofun, fun _ => ⟨dataBuffer_len hfits, htotal⟩⟩
    · omega

/-- Settles O55: the data is the state's own or that of its segment, and the layout of either is mapped; the checks
come in the order of the steps. -/
theorem makeimplBuildsAMappedGrid : Obligations.MakeimplBuildsAMappedGrid := by
  unfold Obligations.MakeimplBuildsAMappedGrid
  refine fun test mask => ⟨by revert test mask; decide, fun s hf hbounded => ⟨fun hm hv hdata => ?_, fun hm => ?_,
    fun hm hv => ?_, fun hm hv hd hlong => ?_⟩⟩
  · obtain ⟨-, -, hseg, -⟩ := hbounded
    obtain ⟨bb, cw, hbody, hkept, hmade⟩ := bodyMakeimpl_completes hv hseg hdata test ⟨mask.toNat, hm⟩
    rw [maskBits_of_lt] at hbody
    obtain ⟨⟨hlen, hrow⟩, hset⟩ :=
      grid_laid (s := { s with bb := bb, cw := cw, dcValid := true }) hv test ⟨mask.toNat, hm⟩
    exact ⟨_, exec_of_ok nofun hf hbody, rfl, rfl, hlen, fun row h => ⟨hrow row h, hset row h⟩, hkept, hmade⟩
  · obtain ⟨t, h, hfault, hcause, hinfo, -⟩ := exec_fault_record (i := .makeimpl test mask) (u := s)
      (c := .maskPattern) (info := mask.toNat) nofun hf (by
        rw [bodyOf, bodyMakeimpl, maskOperand_illegal hm]
        rfl)
    exact ⟨t, h, hfault, hcause, by rw [hinfo, BitVec.ofInt_natCast]⟩
  · obtain ⟨t, h, hfault, hcause, hinfo, -⟩ := exec_fault_record (i := .makeimpl test mask) nofun hf (by
      rw [bodyOf, ← maskBits_of_lt hm]
      exact bodyMakeimpl_outside hv test _)
    exact ⟨t, h, hfault, hcause, hinfo⟩
  · obtain ⟨-, -, hseg, -⟩ := hbounded
    obtain ⟨hfits, -⟩ | ⟨-, u, -, hbody⟩ := bodyMakeimpl_of_invalid hv hseg hd test ⟨mask.toNat, hm⟩
    · omega
    obtain ⟨t, h, hfault, hcause, hinfo, -⟩ := exec_fault_record (i := .makeimpl test mask) nofun hf (by
      rw [bodyOf, ← maskBits_of_lt hm]
      exact hbody)
    exact ⟨t, h, hfault, hcause, by rw [hinfo, BitVec.ofInt_natCast]⟩

end Sys2Proof.Machine
end

section
/-! SUPPORT. `MAKE` from its text (rules R151, R162, R281, R288, R290(a)): the version it takes is a function of the text,
LEVEL and VERSION, the data one of the segment, LEVEL and that version, and the committed grid one of the stream. -/

namespace Sys2Proof.Machine

open Sys2Proof.Reference

/-! ## The search over the data of a segment -/

/-- The steps of `MAKE` behind its segment and its version (rules R280, R281). -/
def makeSymbol (s : State) : Except Stop State := do
  let (s, best) ← selectMask rom s
  let s ← bodyMakeimpl rom false (maskBits best.pattern) s
  let s ← bodyGridFin s
  return ({ s with mask := best.pattern } : State).writeScore best.score

/-- `MAKE` is its segment, its version and the search. -/
theorem bodyMake_eq (s : State) :
    bodyMake rom s = (bodySegEnc s.clearDcValid >>= resolveVersion rom) >>= makeSymbol := by
  rw [bind_assoc]
  rfl

/-- Once the first trial has laid out a valid stream, the search commits the first of its best trials. -/
theorem makeSymbol_of_first_trial {s d : State} (hv : versionInRange d.version.toNat = true) (hd : d.dcValid = true)
    (hfirst : bodyMakeimpl rom true (maskBits 0) s = .ok (d.laid true 0)) :
    ∃ q, isFirstBest d q ∧ makeSymbol s = .ok (d.committed q) := by
  obtain ⟨p, htrials⟩ := runTrials_laid hv hd [1, 2, 3, 4, 5, 6, 7] 0 (trialOf d 0)
  obtain ⟨q, -, hfold, hleast⟩ := bestOf_isFirstBest d [1, 2, 3, 4, 5, 6, 7] 0 (by decide)
  have hselect : selectMask rom s = .ok (d.laid true p, trialOf d q) := by
    rw [selectMask, runTrial, hfirst, ← hfold, ← htrials]
    rfl
  have hlaid : bodyMakeimpl rom false (maskBits q) (d.laid true p) = .ok (d.laid false q) :=
    bodyMakeimpl_laid (s := d.laid true p) hv hd false q
  refine ⟨q, fun p => hleast p ((by decide : ∀ p : Fin 8, p ∈ [0, 1, 2, 3, 4, 5, 6, 7]) p), ?_⟩
  rw [makeSymbol, hselect, ok_bind]
  dsimp only
  rw [show (trialOf d q).pattern = q from rfl, hlaid, ok_bind, bodyGridFin_laid]
  rfl

/-- Without a valid stream the search runs over the data of the segment, or the first trial raises (rule R281). -/
theorem makeSymbol_of_invalid {s : State} (hv : versionLegal s) (hseg : s.segLen ≤ Config.segMax)
    (hd : s.dcValid = false) :
    (segmentBits s ≤ 8 * dataWords s ∧ ∃ q, isFirstBest s.withData q ∧ makeSymbol s = .ok (s.withData.committed q)) ∨
    (8 * dataWords s < segmentBits s ∧ ∃ u : State, u.version = s.version ∧
      makeSymbol s = raise u .dataOverflow (segmentBits s)) := by
  obtain ⟨hfits, hfirst⟩ | ⟨hlong, u, hu, hfirst⟩ := bodyMakeimpl_of_invalid hv hseg hd true 0
  · exact .inl ⟨hfits, makeSymbol_of_first_trial (d := s.withData) ((versionInRange_iff _).mpr hv) rfl hfirst⟩
  · refine .inr ⟨hlong, u, hu, ?_⟩
    rw [makeSymbol, selectMask, runTrial, hfirst]
    rfl

/-! ## The version (rules R162, R281) -/

/-- The version `MAKE` takes for a text, or the reason for which there is none. -/
def resolvedVersion (text : List CodeUnit) (level : BitVec 2) (version : BitVec 8) : Except Raise (BitVec 8) :=
  if version = 0 then (selectVersion rom level.toNat (utf8Length text)).map (BitVec.ofNat 8)
  else (getRSBlocks rom version.toNat level.toNat).map fun _ => version

theorem resolveVersion_eq (s : State) :
    resolveVersion rom s =
      (liftRaise s (resolvedVersion s.text s.level s.version) >>= fun v => .ok { s with version := v }) := by
  unfold resolveVersion resolvedVersion
  split
  · cases selectVersion rom s.level.toNat (utf8Length s.text) <;> rfl
  · rw [State.blocks]
    cases getRSBlocks rom s.version.toNat s.level.toNat <;> rfl

section
variable {text : List CodeUnit} {level : BitVec 2} {version : BitVec 8}

/-- With VERSION 0 the smallest version is taken. -/
theorem resolvedVersion_zero (h : (segEnc text).length ≤ capacity 40 level.toNat) :
    ∃ v, smallestVersion level.toNat (segEnc text).length v.toNat ∧ resolvedVersion text level 0 = .ok v := by
  obtain ⟨v, hsmallest, hselect⟩ := selectVersion_ok (level := level.toNat) (n := (segEnc text).length)
    (Int.natCast_nonneg _) (Int.ofNat_le.mpr h)
  obtain ⟨-, h40, -⟩ := id hsmallest
  have hv : (BitVec.ofNat 8 v).toNat = v := by
    rw [BitVec.toNat_ofNat]
    omega
  refine ⟨BitVec.ofNat 8 v, hv.symm ▸ hsmallest, ?_⟩
  rw [resolvedVersion, if_pos rfl, utf8Length_eq, hselect]
  rfl

theorem resolvedVersion_too_long (h : capacity 40 level.toNat < (segEnc text).length) :
    resolvedVersion text level 0 = .error ⟨.tooLongData, (segEnc text).length⟩ := by
  rw [resolvedVersion, if_pos rfl, utf8Length_eq, selectVersion_too_long level.isLt (Int.ofNat_lt.mpr h)]
  rfl

/-- Another VERSION is taken as it is (rule R288). -/
theorem resolvedVersion_override (h0 : version ≠ 0) (hv : 1 ≤ version.toNat ∧ version.toNat ≤ 40) :
    resolvedVersion text level version = .ok version := by
  rw [resolvedVersion, if_neg h0, getRSBlocks_inside hv level.isLt]
  rfl

theorem resolvedVersion_outside (h0 : version ≠ 0) (hv : ¬ (1 ≤ version.toNat ∧ version.toNat ≤ 40)) :
    resolvedVersion text level version =
      .error ⟨.tableEntryMissing, tableIndex version.toNat level.toNat⟩ := by
  rw [resolvedVersion, if_neg h0, getRSBlocks_outside _ hv]
  rfl

/-- The version that is taken is one of the tables. -/
theorem resolvedVersion_legal {v : BitVec 8} (h : resolvedVersion text level version = .ok v) :
    1 ≤ v.toNat ∧ v.toNat ≤ 40 := by
  by_cases h0 : version = 0
  · subst h0
    by_cases hlen : (segEnc text).length ≤ capacity 40 level.toNat
    · obtain ⟨u, ⟨h1, h40, -⟩, hu⟩ := resolvedVersion_zero hlen
      cases hu.symm.trans h
      exact ⟨h1, h40⟩
    · cases (resolvedVersion_too_long (Nat.not_le.mp hlen)).symm.trans h
  · by_cases hv : 1 ≤ version.toNat ∧ version.toNat ≤ 40
    · cases (resolvedVersion_override h0 hv).symm.trans h
      exact hv
    · cases (resolvedVersion_outside h0 hv).symm.trans h

end

/-! ## The segment and the version -/

/-- The state with the segment of its text (rule R152). -/
def State.encoded (s : State) : State := { s with
  seg := s.seg.writeSeq 0 (segEnc s.text), segLen := (segEnc s.text).length, dcValid := false }

theorem bodyMake_of_long {s : State} (h : Config.segMax < (segEnc s.text).length) :
    bodyMake rom s = raise s.clearDcValid .bufferLimit (segEnc s.text).length := by
  have hseg : bodySegEnc s.clearDcValid = raise s.clearDcValid .bufferLimit (segEnc s.text).length := if_pos h
  rw [bodyMake_eq, hseg]
  rfl

section
variable {s : State} (hlen : (segEnc s.text).length ≤ Config.segMax)
include hlen

theorem bodySegEnc_clearDcValid : bodySegEnc s.clearDcValid = .ok s.encoded := if_neg (Nat.not_lt.mpr hlen)

theorem bodyMake_of_version {v : BitVec 8} (h : resolvedVersion s.text s.level s.version = .ok v) :
    bodyMake rom s = makeSymbol { s.encoded with version := v } := by
  have hversion : resolvedVersion s.encoded.text s.encoded.level s.encoded.version = .ok v := h
  rw [bodyMake_eq, bodySegEnc_clearDcValid hlen, ok_bind, resolveVersion_eq, hversion]
  rfl

theorem bodyMake_of_no_version {e : Raise} (h : resolvedVersion s.text s.level s.version = .error e) :
    bodyMake rom s = raise s.encoded e.cause e.info := by
  have hversion : resolvedVersion s.encoded.text s.encoded.level s.encoded.version = .error e := h
  rw [bodyMake_eq, bodySegEnc_clearDcValid hlen, ok_bind, resolveVersion_eq, hversion]
  rfl

/-- `MAKE` with a version commits the data of its segment, or the data is too long. -/
theorem bodyMake_cases {v : BitVec 8} (h : resolvedVersion s.text s.level s.version = .ok v) :
    let e : State := { s.encoded with version := v }
    (segmentBits e ≤ 8 * dataWords e ∧
      ∃ q, isFirstBest e.withData q ∧ bodyMake rom s = .ok (e.withData.committed q)) ∨
    (8 * dataWords e < segmentBits e ∧ ∃ u : State, u.version = v ∧
      bodyMake rom s = raise u .dataOverflow (segmentBits e)) := by
  rw [bodyMake_of_version hlen h]
  exact makeSymbol_of_invalid (s := { s.encoded with version := v }) (resolvedVersion_legal h) hlen rfl

end

/-! ## `MAKE` for every text -/

/-- A text that a version holds fits its data codewords (rules R161, R163). -/
theorem segmentBits_of_capacity {s : State} (hv : versionLegal s)
    (h : s.segLen ≤ capacity s.version.toNat s.level.toNat) : segmentBits s ≤ 8 * dataWords s := by
  have hcap : ∀ v ∈ List.range' 1 40, ∀ l < 4, 4 + lengthFieldWidth v + 8 * capacity v l ≤ 8 * dataTotal v l := by
    decide +kernel
  have := hcap _ (mem_versions hv) _ s.level.isLt
  unfold segmentBits dataWords
  omega

theorem laid_gridMatchesPhase {d : State} (hv : versionLegal d) (q : Fin 8) : (d.committed q).gridMatchesPhase := by
  obtain ⟨hsquare, hset⟩ := grid_laid hv false q
  exact ⟨.inr (legalSide_sideOf ((versionInRange_iff _).mpr hv)), hsquare, fun _ => sideOf_ne_zero _, nofun, nofun,
    fun _ => hset, ⟨fun _ => rfl, fun _ => rfl⟩, fun _ => rfl⟩

theorem version_ne_zero_of_legal {s : State} (hv : versionLegal s) : s.version ≠ 0 := fun h0 => by
  obtain ⟨h1, -⟩ := hv
  rw [h0] at h1
  exact absurd h1 (by decide)

/-- A text that fits has a version that holds its data: the smallest one, or the override (rules R161 to R163, R288). -/
theorem resolvedVersion_fits {s : State}
    (h : (s.version = 0 ∧ (segEnc s.text).length ≤ capacity 40 s.level.toNat) ∨
      (versionLegal s ∧ 4 + lengthFieldWidth s.version.toNat + 8 * (segEnc s.text).length ≤ 8 * dataWords s)) :
    ∃ v, resolvedVersion s.text s.level s.version = .ok v ∧ (s.version ≠ 0 → v = s.version) ∧
      (s.version = 0 → smallestVersion s.level.toNat (segEnc s.text).length v.toNat) ∧
      segmentBits { s.encoded with version := v } ≤ 8 * dataWords { s.encoded with version := v } := by
  obtain ⟨h0, hcap⟩ | ⟨hv, hfits⟩ := h
  · obtain ⟨v, hsmallest, hres⟩ := resolvedVersion_zero hcap
    obtain ⟨h1, h40, hholds, -⟩ := id hsmallest
    exact ⟨v, h0 ▸ hres, fun hne => absurd h0 hne, fun _ => hsmallest,
      segmentBits_of_capacity (s := { s.encoded with version := v }) ⟨h1, h40⟩ (Int.ofNat_le.mp hholds)⟩
  · have h0 := version_ne_zero_of_legal hv
    exact ⟨s.version, resolvedVersion_override h0 hv, fun _ => rfl, fun h => absurd h h0, hfits⟩

/-- An element of SEG once the segment is stored (rule R152; log entry 13). -/
theorem read_encoded {s : State} (hseg : s.seg.wf = true) (k : Nat) :
    s.encoded.seg.read k = (segEnc s.text).getD k (s.seg.read k) := by
  rw [State.encoded, Memory.read_writeSeq hseg, if_pos (Nat.zero_le k), Nat.sub_zero]

/-- The segment of a text within TXT_MAX fits SEG. -/
theorem segEnc_fits {s : State} (h : s.txtLen ≤ Config.txtMax) : (segEnc s.text).length ≤ Config.segMax := calc
  _ ≤ 3 * s.txtLen + 3 := text_length s ▸ segEnc_length_le s.text
  _ ≤ 3 * Config.txtMax + 3 := by omega
  _ = Config.segMax := rfl

/-- Settles O57: a text that fits has a version, the data of its segment is laid out and the best mask committed; and
each fault comes from the step that finds nothing. -/
theorem makeBuildsTheSymbol : Obligations.MakeBuildsTheSymbol := by
  unfold Obligations.MakeBuildsTheSymbol
  refine ⟨by decide, fun s hf hbounded hcanonical => ?_⟩
  obtain ⟨-, htxt, -⟩ := hbounded
  obtain ⟨-, -, hseg, -⟩ := hcanonical
  have hlen := segEnc_fits htxt
  have hbytes : segmentOf ((List.range s.txtLen).map s.txt.read) = (segEnc s.text).map BitVec.toNat :=
    (map_toNat_segEnc s.text).symm
  dsimp only
  rw [hbytes, List.length_map]
  refine ⟨fun h => ?_, fun h0 hlong => ?_, fun h0 hv => ?_, fun hv hlong => ?_⟩
  · obtain ⟨v, hres, hoverride, hsmallest, hfits⟩ := resolvedVersion_fits h
    have hv := resolvedVersion_legal hres
    obtain ⟨-, q, -, hbody⟩ | ⟨hlong, -⟩ := bodyMake_cases hlen hres
    swap
    · exact absurd hfits (Nat.not_le.mpr hlong)
    obtain ⟨-, htotal⟩ := dataStream_spec (s := { s.encoded with version := v }) hv hfits
    refine ⟨_, exec_of_ok nofun hf hbody, rfl, hoverride, hsmallest, rfl, laid_gridMatchesPhase hv q, fun k => ?_,
      dataBuffer_len hfits, htotal⟩
    refine (read_encoded hseg k).trans ?_
    rw [List.getD_eq_getElem?_getD, List.getElem?_map]
    cases (segEnc s.text)[k]? <;> simp
  · obtain ⟨t, h, hfault, hcause, hinfo, hversion⟩ := exec_fault_record (i := .make) nofun hf
      (bodyMake_of_no_version hlen (h0 ▸ resolvedVersion_too_long hlong))
    exact ⟨t, h, hfault, hcause, by rw [hinfo, BitVec.ofInt_natCast], hversion.trans h0⟩
  · obtain ⟨t, h, hfault, hcause, hinfo, hversion⟩ := exec_fault_record (i := .make) nofun hf
      (bodyMake_of_no_version hlen (resolvedVersion_outside h0 hv))
    exact ⟨t, h, hfault, hcause, hinfo, hversion⟩
  · have h0 := version_ne_zero_of_legal hv
    have hneed : segmentBits { s.encoded with version := s.version } =
      4 + lengthFieldWidth s.version.toNat + 8 * (segEnc s.text).length := rfl
    obtain ⟨hfits, -⟩ | ⟨-, u, hu, hbody⟩ := bodyMake_cases hlen (resolvedVersion_override h0 hv)
    · exact absurd hfits (Nat.not_le.mpr hlong)
    · obtain ⟨t, h, hfault, hcause, hinfo, hversion⟩ := exec_fault_record (i := .make) nofun hf hbody
      exact ⟨t, h, hfault, hcause, by rw [hinfo, BitVec.ofInt_natCast, hneed], hversion.trans hu⟩

/-! ## What `MAKE` depends on -/

/-- Streams that agree in version, level and codewords are laid out alike. -/
theorem laid_grid_congr {d d' : State} (hversion : d.version = d'.version) (hlevel : d.level = d'.level)
    (hcw : d.cw = d'.cw) (test : Bool) (p : Fin 8) : (d.laid test p).grid = (d'.laid test p).grid := by
  simp only [State.laid, hversion, hlevel, hcw]

theorem trialOf_congr {d d' : State} (hversion : d.version = d'.version) (hlevel : d.level = d'.level)
    (hcw : d.cw = d'.cw) : trialOf d = trialOf d' := by
  funext p
  rw [trialOf, trialOf, laid_grid_congr hversion hlevel hcw, hversion]

theorem isFirstBest_congr {d d' : State} {q : Fin 8} (hversion : d.version = d'.version) (hlevel : d.level = d'.level)
    (hcw : d.cw = d'.cw) : isFirstBest d q ↔ isFirstBest d' q := by
  simp only [isFirstBest, trialKey, trialOf_congr hversion hlevel hcw, hversion]

/-- There is one first pattern of least key. -/
theorem isFirstBest_unique {d : State} {q q' : Fin 8} (h : isFirstBest d q) (h' : isFirstBest d q') : q = q' := by
  obtain hlt | heq | hgt := lt_trichotomy q q'
  · exact absurd ((h' q).2 hlt) (Nat.not_lt.mpr (h q').1)
  · exact heq
  · exact absurd ((h q').2 hgt) (Nat.not_lt.mpr (h' q).1)

@[simp] theorem committed_grid (d : State) (q : Fin 8) : (d.committed q).grid = (d.laid false q).grid := rfl
@[simp] theorem committed_bb (d : State) (q : Fin 8) : (d.committed q).bb = d.bb := rfl
@[simp] theorem committed_cw (d : State) (q : Fin 8) : (d.committed q).cw = d.cw := rfl
@[simp] theorem committed_seg (d : State) (q : Fin 8) : (d.committed q).seg = d.seg := rfl
@[simp] theorem committed_segLen (d : State) (q : Fin 8) : (d.committed q).segLen = d.segLen := rfl

/-- What `MAKE` commits of streams that agree in version, level and codewords. -/
theorem committed_congr {d d' : State} {q q' : Fin 8} (hversion : d.version = d'.version) (hlevel : d.level = d'.level)
    (hcw : d.cw = d'.cw) (hq : isFirstBest d q) (hq' : isFirstBest d' q') :
    (d.committed q).grid = (d'.committed q').grid ∧ (d.committed q).modCnt = (d'.committed q').modCnt ∧
      (d.committed q).mask = (d'.committed q').mask ∧ (d.committed q).scoreN = (d'.committed q').scoreN ∧
      (d.committed q).scoreF = (d'.committed q').scoreF := by
  obtain rfl := isFirstBest_unique ((isFirstBest_congr hversion hlevel hcw).mp hq) hq'
  have htrial := congrFun (trialOf_congr hversion hlevel hcw) q
  refine ⟨?_, ?_, ?_, ?_, ?_⟩
  · rw [committed_grid, committed_grid, laid_grid_congr hversion hlevel hcw]
  · rw [committed_modCnt, committed_modCnt, hversion]
  · rw [committed_mask, committed_mask]
  · rw [committed_scoreN, committed_scoreN, htrial]
  · rw [committed_scoreF, committed_scoreF, htrial]

/-- The data of a segment depends on the segment, the version and the level. -/
theorem dataBuffer_congr {s s' : State} (hseg : s.segment = s'.segment) (hlen : s.segLen = s'.segLen)
    (hversion : s.version = s'.version) (hlevel : s.level = s'.level) : s.dataBuffer = s'.dataBuffer := by
  simp only [State.dataBuffer, State.segmentBuffer, dataWords, segmentBits, hseg, hlen, hversion, hlevel]

theorem dataStream_congr {s s' : State} (hbuffer : s.dataBuffer = s'.dataBuffer)
    (hversion : s.version = s'.version) (hlevel : s.level = s'.level) : s.dataStream = s'.dataStream := by
  simp only [State.dataStream, dataWords, hbuffer, hversion, hlevel]

/-- The segment that has been stored is the encoded text. -/
theorem segment_encoded {s : State} (hseg : s.seg.wf = true) : s.encoded.segment = segEnc s.text := by
  refine List.ext_getElem? fun k => ?_
  rw [State.segment, Memory.readSeq_getElem?, read_encoded hseg, List.getD_eq_getElem?_getD]
  split
  next h =>
    rw [List.getElem?_eq_getElem h, Option.getD_some]
  next h => exact (List.getElem?_eq_none (Nat.not_lt.mp h)).symm

/-- Settles O59: the text, LEVEL and VERSION decide the version that is taken or its fault, the version and the text the
data, and the data the layouts, their scores and the first best of them. -/
theorem makeDependsOnTextLevelVersionOnly : Obligations.MakeDependsOnTextLevelVersionOnly := by
  unfold Obligations.MakeDependsOnTextLevelVersionOnly
  intro s s' t t' hcanonical hcanonical' hf hf' htxtLen htxt hlevel hversion h h'
  obtain ⟨-, -, hseg, -⟩ := hcanonical
  obtain ⟨-, -, hseg', -⟩ := hcanonical'
  have htext : s.text = s'.text := by
    rw [State.text, State.text, ← htxtLen]
    exact Memory.readSeq_congr htxt
  -- both raise alike, whatever else is claimed of states without a fault
  have hraise {P : Prop} {u u' : State} {c : Cause} {info : Int} (hb : bodyMake rom s = raise u c info)
      (hb' : bodyMake rom s' = raise u' c info) (hv : u.version = u'.version) :
      t.fault = t'.fault ∧ t.version = t'.version ∧
        (t.fault = true → t.cause = t'.cause ∧ t.finfo = t'.finfo) ∧ (t.fault = false → P) := by
    obtain ⟨w, hx, hfault, hcause, hinfo, hw⟩ := exec_fault_record (i := .make) nofun hf hb
    obtain ⟨w', hx', hfault', hcause', hinfo', hw'⟩ := exec_fault_record (i := .make) nofun hf' hb'
    cases hx.symm.trans h
    cases hx'.symm.trans h'
    exact ⟨hfault.trans hfault'.symm, hw.trans (hv.trans hw'.symm),
      fun _ => ⟨hcause.trans hcause'.symm, hinfo.trans hinfo'.symm⟩, fun hn => by rw [hfault] at hn; cases hn⟩
  by_cases hlen : (segEnc s.text).length ≤ Config.segMax
  swap
  · have hbody' := bodyMake_of_long (s := s') (by rw [← htext]; omega)
    rw [← htext] at hbody'
    exact hraise (bodyMake_of_long (Nat.not_le.mp hlen)) hbody' hversion
  have hlen' : (segEnc s'.text).length ≤ Config.segMax := htext ▸ hlen
  cases hres : resolvedVersion s.text s.level s.version with
  | error e =>
    have hres' := hres
    rw [htext, hlevel, hversion] at hres'
    exact hraise (bodyMake_of_no_version hlen hres) (bodyMake_of_no_version hlen' hres') hversion
  | ok v =>
    have hres' := hres
    rw [htext, hlevel, hversion] at hres'
    have hsegment : s.encoded.segment = s'.encoded.segment := by
      rw [segment_encoded hseg, segment_encoded hseg', htext]
    have hsegLen : s.encoded.segLen = s'.encoded.segLen := congrArg (fun l => (segEnc l).length) htext
    have hbits : segmentBits { s.encoded with version := v } = segmentBits { s'.encoded with version := v } :=
      congrArg (fun n => 4 + lengthFieldWidth v.toNat + 8 * n) hsegLen
    have hwords : dataWords { s.encoded with version := v } = dataWords { s'.encoded with version := v } :=
      congrArg (fun l : BitVec 2 => dataTotal v.toNat l.toNat) hlevel
    obtain ⟨hfits, q, hq, hbody⟩ | ⟨hlong, u, hu, hbody⟩ := bodyMake_cases hlen hres <;>
      obtain ⟨hfits', q', hq', hbody'⟩ | ⟨hlong', u', hu', hbody'⟩ := bodyMake_cases hlen' hres'
    · have hbb : (State.withData { s.encoded with version := v }).bb =
          (State.withData { s'.encoded with version := v }).bb :=
        dataBuffer_congr (s := { s.encoded with version := v }) (s' := { s'.encoded with version := v })
          hsegment hsegLen rfl hlevel
      have hcw : (State.withData { s.encoded with version := v }).cw =
          (State.withData { s'.encoded with version := v }).cw :=
        dataStream_congr (s := { s.encoded with version := v }) (s' := { s'.encoded with version := v })
          hbb rfl hlevel
      obtain ⟨hgrid, hside, hmask, hscoreN, hscoreF⟩ := committed_congr
        (d := State.withData { s.encoded with version := v }) (d' := State.withData { s'.encoded with version := v }) rfl hlevel hcw hq hq'
      have hft : (State.withData { s.encoded with version := v }).fault = false := hf
      have hft' : (State.withData { s'.encoded with version := v }).fault = false := hf'
      cases (exec_of_ok (i := .make) nofun hf hbody).symm.trans h
      cases (exec_of_ok (i := .make) nofun hf' hbody').symm.trans h'
      refine ⟨?_, ?_, fun hfault => ?_, fun _ =>
        ⟨hgrid, hside, hmask, hscoreN, hscoreF, ?_, ?_, ?_, fun k hk => ?_⟩⟩
      · rw [committed_fault, committed_fault, hft, hft']
      · rw [committed_version, committed_version]
        rfl
      · rw [committed_fault, hft] at hfault
        cases hfault
      · rw [committed_bb, committed_bb, hbb]
      · rw [committed_cw, committed_cw, hcw]
      · rw [committed_segLen, committed_segLen]
        exact hsegLen
      · rw [committed_segLen] at hk
        rw [committed_seg, committed_seg]
        have hk' : k < (segEnc s'.text).length := htext ▸ hk
        refine (read_encoded hseg k).trans (Eq.trans ?_ (read_encoded hseg' k).symm)
        rw [htext, List.getD_eq_getElem _ _ hk', List.getD_eq_getElem _ _ hk']
    · omega
    · omega
    · rw [hbits] at hbody
      exact hraise hbody hbody' (hu.trans hu'.symm)

end Sys2Proof.Machine
end

section
/-! SUPPORT. The cells after a sequence of writes, the rings around a centre, and the cells of the finder patterns
(rules R252, R253). -/

namespace Sys2Proof.Machine

open Sys2Proof.Reference

/-! ## Sequences of writes -/

section
variable {mc r c : Nat}

/-- A cell after a write at any position. -/
theorem Grid.cell_put_int {g : Grid} (hg : g.square mc) (hr : r < mc) (hc : c < mc) (row col : Int) (dark : Bool) :
    (g.put row col dark).cell r c = if row = r ∧ col = c then GridCell.ofBool dark else g.cell r c := by
  by_cases hneg : row < 0 ∨ col < 0
  · rw [Grid.put_negative hneg, if_neg (by omega)]
  · obtain ⟨m, rfl⟩ := Int.eq_ofNat_of_zero_le (show 0 ≤ row by omega)
    obtain ⟨n, rfl⟩ := Int.eq_ofNat_of_zero_le (show 0 ≤ col by omega)
    rw [Grid.cell_put hg]
    exact if_congr (by omega) rfl rfl

/-- Steps that each apply an idempotent change to a cell or leave it. -/
theorem Grid.cell_foldl {α : Type} {step : Grid → α → Grid} {f : GridCell → GridCell} {hit : α → Prop} {l : List α}
    {g : Grid} (hg : g.square mc) (hf : ∀ x, f (f x) = f x)
    (hsquare : ∀ g a, g.square mc → (step g a).square mc)
    (hhit : ∀ a ∈ l, ∀ g, g.square mc → hit a → (step g a).cell r c = f (g.cell r c))
    (hmiss : ∀ a ∈ l, ∀ g, g.square mc → ¬ hit a → (step g a).cell r c = g.cell r c) :
    ((∃ a ∈ l, hit a) → (l.foldl step g).cell r c = f (g.cell r c)) ∧
      ((∀ a ∈ l, ¬ hit a) → (l.foldl step g).cell r c = g.cell r c) := by
  induction l generalizing g with
  | nil => exact ⟨nofun, fun _ => rfl⟩
  | cons a l ih =>
    obtain ⟨hsome, hnone⟩ := ih (hsquare g a hg) (fun b hb => hhit b (List.mem_cons_of_mem _ hb))
      (fun b hb => hmiss b (List.mem_cons_of_mem _ hb))
    rw [List.foldl_cons]
    refine ⟨fun ⟨b, hb, hbhit⟩ => ?_, fun h => ?_⟩
    · by_cases hl : ∃ b ∈ l, hit b
      · rw [hsome hl]
        by_cases ha : hit a
        · rw [hhit a List.mem_cons_self g hg ha, hf]
        · rw [hmiss a List.mem_cons_self g hg ha]
      · have hl' : ∀ b ∈ l, ¬ hit b := fun b hb h => hl ⟨b, hb, h⟩
        obtain rfl | hb := List.mem_cons.mp hb
        · rw [hnone hl', hhit b List.mem_cons_self g hg hbhit]
        · exact absurd hbhit (hl' b hb)
    · rw [hnone fun b hb => h b (List.mem_cons_of_mem _ hb),
        hmiss a List.mem_cons_self g hg (h a List.mem_cons_self)]

theorem mem_offsets {first : Int} {n : Nat} {o : Int × Int} :
    o ∈ offsets first n ↔ (first ≤ o.1 ∧ o.1 < first + n) ∧ first ≤ o.2 ∧ o.2 < first + n := by
  have hrange (x : Int) : x ∈ intRange first n ↔ first ≤ x ∧ x < first + n := by
    simp only [intRange, List.mem_map, List.mem_range]
    exact ⟨fun ⟨i, hi, hx⟩ => by omega, fun h => ⟨(x - first).toNat, by omega, by omega⟩⟩
  obtain ⟨dr, dc⟩ := o
  simp only [offsets, List.mem_flatMap, List.mem_map, Prod.mk.injEq, hrange]
  constructor
  · rintro ⟨x, hx, y, hy, rfl, rfl⟩
    exact ⟨hx, hy⟩
  · rintro ⟨hx, hy⟩
    exact ⟨dr, hx, dc, hy, rfl, rfl⟩

/-- A square footprint whose cells are written by their offset from a cell. -/
theorem cell_foldl_offsets {step : Grid → Int × Int → Grid} {colour : Int → Int → Bool} {first row col : Int} {n : Nat}
    {g : Grid} (hg : g.square mc) (hsquare : ∀ g o, g.square mc → (step g o).square mc)
    (hstep : ∀ g o, g.square mc → (step g o).cell r c =
      if row + o.1 = r ∧ col + o.2 = c then GridCell.ofBool (colour o.1 o.2) else g.cell r c) :
    ((offsets first n).foldl step g).cell r c =
      if (first ≤ r - row ∧ r - row < first + n) ∧ first ≤ c - col ∧ c - col < first + n then
        GridCell.ofBool (colour (r - row) (c - col))
      else g.cell r c := by
  obtain ⟨hsome, hnone⟩ := Grid.cell_foldl (r := r) (c := c) (step := step) (l := offsets first n)
    (f := fun _ => GridCell.ofBool (colour (r - row) (c - col))) (hit := fun o => row + o.1 = r ∧ col + o.2 = c)
    hg (fun _ => rfl) hsquare
    (fun o _ g hg h => by rw [hstep g o hg, if_pos h, show o.1 = r - row by omega, show o.2 = c - col by omega])
    (fun o _ g hg h => by rw [hstep g o hg, if_neg h])
  split
  next h => exact hsome ⟨(r - row, c - col), mem_offsets.mpr h, by simp⟩
  next h =>
    refine hnone fun o ho => ?_
    have := mem_offsets.mp ho
    omega

end

/-! ## Rings -/

theorem ring_le_iff {r c a b k : Nat} :
    ring r c a b ≤ k ↔ (r ≤ a + k ∧ a ≤ r + k) ∧ c ≤ b + k ∧ b ≤ c + k := by
  unfold ring apart
  omega

/-- The colours of the finder pattern by offset are those by ring (rules R252, R253). -/
theorem finderDark_eq {r c a b : Nat} (h : ring r c a b ≤ 4) :
    finderDark ((r : Int) - (a - 3)) ((c : Int) - (b - 3)) = finderColour (ring r c a b) := by
  have htable : ∀ dr : Nat, dr < 9 → ∀ dc : Nat, dc < 9 →
      finderDark ((dr : Int) - 1) ((dc : Int) - 1) = finderColour (ring dr dc 4 4) := by decide
  rw [ring_le_iff] at h
  have key := htable (r + 4 - a) (by omega) (c + 4 - b) (by omega)
  rw [show ((r + 4 - a : Nat) : Int) - 1 = r - (a - 3) by omega,
    show ((c + 4 - b : Nat) : Int) - 1 = c - (b - 3) by omega] at key
  rw [key]
  congr 1
  unfold ring apart
  omega

/-- The colours of the alignment pattern by offset are those by ring (rule R254). -/
theorem alignmentDark_eq {r c a b : Nat} (h : ring r c a b ≤ 2) :
    alignmentDark ((r : Int) - a) ((c : Int) - b) = alignmentColour (ring r c a b) := by
  have htable : ∀ dr : Nat, dr < 5 → ∀ dc : Nat, dc < 5 →
      alignmentDark ((dr : Int) - 2) ((dc : Int) - 2) = alignmentColour (ring dr dc 2 2) := by decide
  rw [ring_le_iff] at h
  have key := htable (r + 2 - a) (by omega) (c + 2 - b) (by omega)
  rw [show ((r + 2 - a : Nat) : Int) - 2 = r - a by omega,
    show ((c + 2 - b : Nat) : Int) - 2 = c - b by omega] at key
  rw [key]
  congr 1
  unfold ring apart
  omega

theorem inFinder_iff {mc r c : Nat} : inFinder mc r c = true ↔ ∃ p ∈ finderCentres mc, ring r c p.1 p.2 ≤ 4 := by
  simp [inFinder]

/-! ## The finder patterns -/

section
variable {mc r c : Nat} {g : Grid} (hg : g.square mc) (hr : r < mc) (hc : c < mc)
include hg hr hc

/-- One finder pattern, by the ring around its centre. -/
theorem placeFinder_cell {row col : Int} {a b : Nat} (ha : row = a - 3) (hb : col = b - 3) :
    (placeFinder mc row col g).cell r c =
      if ring r c a b ≤ 4 then GridCell.ofBool (finderColour (ring r c a b)) else g.cell r c := by
  subst ha hb
  unfold placeFinder
  rw [cell_foldl_offsets (r := r) (c := c) (colour := finderDark) (row := a - 3) (col := b - 3) hg]
  · have hregion : ring r c a b ≤ 4 ↔ (-1 ≤ (r : Int) - (a - 3) ∧ (r : Int) - (a - 3) < -1 + (9 : Nat)) ∧
        -1 ≤ (c : Int) - (b - 3) ∧ (c : Int) - (b - 3) < -1 + (9 : Nat) := by
      rw [ring_le_iff]
      omega
    by_cases h : ring r c a b ≤ 4
    · rw [if_pos (hregion.mp h), if_pos h, finderDark_eq h]
    · rw [if_neg (mt hregion.mpr h), if_neg h]
  · rintro g ⟨dr, dc⟩ hg
    dsimp only
    split
    · exact hg
    · exact Grid.square_put hg _ _ _
  · rintro g ⟨dr, dc⟩ hg
    dsimp only
    split
    · rw [if_neg (by omega)]
    · exact Grid.cell_put_int hg hr hc _ _ _

/-- The three finder patterns, which do not meet (rules R252, R253). -/
theorem placeFinders_cell (hmc : 21 ≤ mc) :
    (∀ p ∈ finderCentres mc, ring r c p.1 p.2 ≤ 4 →
      (placeFinders mc g).cell r c = GridCell.ofBool (finderColour (ring r c p.1 p.2))) ∧
    (inFinder mc r c = false → (placeFinders mc g).cell r c = g.cell r c) := by
  have h1 := placeFinder_keeps square_put (mc := mc) (row := 0) (col := 0) hg
  have h2 := placeFinder_keeps square_put (mc := mc) (row := (mc : Int) - 7) (col := 0) h1
  have hcell : (placeFinders mc g).cell r c =
      if ring r c 3 (mc - 4) ≤ 4 then GridCell.ofBool (finderColour (ring r c 3 (mc - 4)))
      else if ring r c (mc - 4) 3 ≤ 4 then GridCell.ofBool (finderColour (ring r c (mc - 4) 3))
      else if ring r c 3 3 ≤ 4 then GridCell.ofBool (finderColour (ring r c 3 3)) else g.cell r c := by
    unfold placeFinders
    rw [placeFinder_cell h2 hr hc (a := 3) (b := mc - 4) (by omega) (by omega),
      placeFinder_cell h1 hr hc (a := mc - 4) (b := 3) (by omega) (by omega),
      placeFinder_cell hg hr hc (a := 3) (b := 3) (by omega) (by omega)]
  rw [hcell]
  refine ⟨fun p hp h => ?_, fun h => ?_⟩
  · simp only [finderCentres, List.mem_cons, List.not_mem_nil, or_false] at hp
    obtain rfl | rfl | rfl := hp
    all_goals
      simp only [ring_le_iff] at h ⊢
    · rw [if_neg (by omega), if_neg (by omega), if_pos h]
    · rw [if_neg (by omega), if_pos h]
    · rw [if_pos h]
  · have hout : ∀ p ∈ finderCentres mc, ¬ ring r c p.1 p.2 ≤ 4 := fun p hp hle => by
      rw [inFinder_iff.mpr ⟨p, hp, hle⟩] at h
      cases h
    rw [if_neg (hout (3, mc - 4) (by simp [finderCentres])), if_neg (hout (mc - 4, 3) (by simp [finderCentres])),
      if_neg (hout (3, 3) (by simp [finderCentres]))]

end

end Sys2Proof.Machine
end

section
/-! SUPPORT. The cells of the alignment patterns, the timing pattern, the format and the version blocks (rules R254 to
R266), and that the regions of the patterns are disjoint for every version. -/

namespace Sys2Proof.Machine

open Sys2Proof.Reference

/-! ## The alignment patterns -/

/-- The coordinates of a version's alignment patterns (rule R25). -/
def alignmentPositions (version : Nat) : List Nat := patternPositionRows.getD (version - 1) []

/-- The combinations of the coordinates, in the order of the placement (rule R254). -/
def alignmentPairs (version : Nat) : List (Nat × Nat) :=
  (alignmentPositions version).flatMap fun a => (alignmentPositions version).map fun b => (a, b)

theorem alignmentCentres_eq (version : Nat) :
    alignmentCentres version = (alignmentPairs version).filter fun p => !inFinder (sideOf version) p.1 p.2 := rfl

theorem placeAlignment_eq (version : Nat) (g : Grid) :
    placeAlignment rom version g = (alignmentPairs version).foldl (fun g p => placeAlignmentAt p.1 p.2 g) g := by
  simp only [alignmentPairs, List.foldl_flatMap, List.foldl_map]
  rfl

/-- What rule R25's table has of coordinates: even, at least 12 apart, the first and the last beside the finders. -/
theorem alignmentPositions_spec {version : Nat} (hv : 1 ≤ version ∧ version ≤ 40) :
    (alignmentPositions version).Pairwise (fun a b => a + 12 ≤ b) ∧
      ∀ a ∈ alignmentPositions version, a % 2 = 0 ∧ (a = 6 ∨ 18 ≤ a) ∧
        (a + 7 = sideOf version ∨ a + 19 ≤ sideOf version) := by
  have h : ∀ v ∈ List.range' 1 40, (alignmentPositions v).Pairwise (fun a b => a + 12 ≤ b) ∧
      ∀ a ∈ alignmentPositions v, a % 2 = 0 ∧ (a = 6 ∨ 18 ≤ a) ∧ (a + 7 = sideOf v ∨ a + 19 ≤ sideOf v) := by
    decide +kernel
  exact h version (mem_versions hv)

theorem mem_alignmentPairs {version : Nat} {p : Nat × Nat} :
    p ∈ alignmentPairs version ↔ p.1 ∈ alignmentPositions version ∧ p.2 ∈ alignmentPositions version := by
  obtain ⟨a, b⟩ := p
  simp [alignmentPairs]

/-- The combinations are so far apart that their patterns do not meet. -/
theorem alignmentPairs_apart {version : Nat} (hv : 1 ≤ version ∧ version ≤ 40) :
    (alignmentPairs version).Pairwise fun p q => 4 < ring q.1 q.2 p.1 p.2 := by
  obtain ⟨hsorted, -⟩ := alignmentPositions_spec hv
  simp only [← Nat.not_le, ring_le_iff]
  refine List.pairwise_flatMap.mpr ⟨fun a _ => List.pairwise_map.mpr (hsorted.imp fun h => by omega),
    hsorted.imp fun {a a'} h => ?_⟩
  simp only [List.mem_map]
  rintro _ ⟨b, -, rfl⟩ _ ⟨b', -, rfl⟩
  dsimp only
  omega

section
variable {mc r c : Nat} (hr : r < mc) (hc : c < mc)
include hr hc

/-- One alignment pattern at a free centre, by the ring around it. -/
theorem placeAlignmentAt_free {g : Grid} (hg : g.square mc) {a b : Nat} (h : g.cell a b = .unset) :
    (placeAlignmentAt a b g).cell r c =
      if ring r c a b ≤ 2 then GridCell.ofBool (alignmentColour (ring r c a b)) else g.cell r c := by
  rw [placeAlignmentAt, if_neg (not_not.mpr h),
    cell_foldl_offsets (r := r) (c := c) (colour := alignmentDark) (row := a) (col := b) hg
      (fun g _ hg => Grid.square_put hg _ _ _) (fun g _ hg => Grid.cell_put_int hg hr hc _ _ _)]
  have hregion : ring r c a b ≤ 2 ↔ (-2 ≤ (r : Int) - a ∧ (r : Int) - a < -2 + (5 : Nat)) ∧
      -2 ≤ (c : Int) - b ∧ (c : Int) - b < -2 + (5 : Nat) := by
    rw [ring_le_iff]
    omega
  by_cases h : ring r c a b ≤ 2
  · rw [if_pos (hregion.mp h), if_pos h, alignmentDark_eq h]
  · rw [if_neg (mt hregion.mpr h), if_neg h]

/-- Alignment patterns far apart: those with a free centre are placed, each whole (rule R254). -/
theorem foldl_placeAlignmentAt_cell {keep : Nat × Nat → Bool} {l : List (Nat × Nat)} {g : Grid} (hg : g.square mc)
    (hapart : l.Pairwise fun p q => 4 < ring q.1 q.2 p.1 p.2)
    (hin : ∀ p ∈ l, p.1 < mc ∧ p.2 < mc) (hkeep : ∀ p ∈ l, g.cell p.1 p.2 = .unset ↔ keep p = true) :
    (∀ p ∈ l.filter keep, ring r c p.1 p.2 ≤ 2 →
      (l.foldl (fun g p => placeAlignmentAt p.1 p.2 g) g).cell r c =
        GridCell.ofBool (alignmentColour (ring r c p.1 p.2))) ∧
    ((∀ p ∈ l.filter keep, ¬ ring r c p.1 p.2 ≤ 2) →
      (l.foldl (fun g p => placeAlignmentAt p.1 p.2 g) g).cell r c = g.cell r c) := by
  induction l generalizing g with
  | nil => exact ⟨nofun, fun _ => rfl⟩
  | cons p l ih =>
    obtain ⟨hfar, hapart⟩ := List.pairwise_cons.mp hapart
    obtain ⟨hp, hkeep⟩ := List.forall_mem_cons.mp hkeep
    obtain ⟨-, hin'⟩ := List.forall_mem_cons.mp hin
    rw [List.foldl_cons]
    by_cases hfree : g.cell p.1 p.2 = .unset
    · -- the pattern leaves the later centres as they are
      have hcentre : ∀ q ∈ l, (placeAlignmentAt p.1 p.2 g).cell q.1 q.2 = g.cell q.1 q.2 := fun q hq => by
        have hlt := hfar q hq
        rw [placeAlignmentAt_free (hin' q hq).1 (hin' q hq).2 hg hfree, if_neg (by omega)]
      obtain ⟨hsome, hnone⟩ := ih (placeAlignmentAt_keeps square_put hg) hapart hin'
        (fun q hq => by rw [hcentre q hq]; exact hkeep q hq)
      rw [List.filter_cons_of_pos (hp.mp hfree)]
      refine ⟨fun q hq hle => ?_, fun h => ?_⟩
      · obtain rfl | hq := List.mem_cons.mp hq
        · rw [hnone, placeAlignmentAt_free hr hc hg hfree, if_pos hle]
          intro q' hq' hle'
          have hlt := hfar q' (List.mem_of_mem_filter hq')
          rw [← Nat.not_le, ring_le_iff] at hlt
          rw [ring_le_iff] at hle hle'
          omega
        · exact hsome q hq hle
      · rw [hnone fun q hq => h q (List.mem_cons_of_mem _ hq), placeAlignmentAt_free hr hc hg hfree,
          if_neg (h p List.mem_cons_self)]
    · rw [placeAlignmentAt, if_pos hfree, List.filter_cons_of_neg (mt hp.mpr hfree)]
      exact ih hg hapart hin' hkeep

end

/-- Where a placed alignment pattern lies: even coordinates, beside the finders' rows and columns or far from them. -/
structure AlignmentCentre (mc : Nat) (p : Nat × Nat) : Prop where
  row : (p.1 = 6 ∨ 18 ≤ p.1) ∧ (p.1 + 7 = mc ∨ p.1 + 19 ≤ mc)
  col : (p.2 = 6 ∨ 18 ≤ p.2) ∧ (p.2 + 7 = mc ∨ p.2 + 19 ≤ mc)
  even : p.1 % 2 = 0 ∧ p.2 % 2 = 0
  apart : ∀ f ∈ finderCentres mc, 6 < ring p.1 p.2 f.1 f.2

theorem alignmentCentre_of_mem {version : Nat} (hv : 1 ≤ version ∧ version ≤ 40) {p : Nat × Nat}
    (hp : p ∈ alignmentCentres version) : AlignmentCentre (sideOf version) p := by
  rw [alignmentCentres_eq] at hp
  obtain ⟨hpair, hfinder⟩ := List.mem_filter.mp hp
  obtain ⟨h1, h2⟩ := mem_alignmentPairs.mp hpair
  obtain ⟨-, hpos⟩ := alignmentPositions_spec hv
  obtain ⟨heven1, hrow⟩ := hpos _ h1
  obtain ⟨heven2, hcol⟩ := hpos _ h2
  refine ⟨hrow, hcol, ⟨heven1, heven2⟩, fun f hf => ?_⟩
  have hmc : sideOf version = version * 4 + 17 := rfl
  have hout : ¬ ring p.1 p.2 f.1 f.2 ≤ 4 := fun hle => by
    rw [inFinder_iff.mpr ⟨f, hf, hle⟩] at hfinder
    cases hfinder
  rw [ring_le_iff] at hout
  rw [← Nat.not_le, ring_le_iff]
  simp only [finderCentres, List.mem_cons, List.not_mem_nil, or_false] at hf
  obtain rfl | rfl | rfl := hf <;> dsimp only at hout ⊢ <;> omega

/-- The finder and the alignment patterns of a blank grid (rules R252 to R254). -/
theorem placeAlignment_cell {version r c : Nat} {g : Grid} (hv : 1 ≤ version ∧ version ≤ 40)
    (hg : g.square (sideOf version)) (hblank : ∀ r < sideOf version, ∀ c < sideOf version, g.cell r c = .unset)
    (hr : r < sideOf version) (hc : c < sideOf version) :
    let g' := placeAlignment rom version (placeFinders (sideOf version) g)
    (∀ p ∈ finderCentres (sideOf version), ring r c p.1 p.2 ≤ 4 →
      g'.cell r c = GridCell.ofBool (finderColour (ring r c p.1 p.2))) ∧
    (∀ p ∈ alignmentCentres version, ring r c p.1 p.2 ≤ 2 →
      g'.cell r c = GridCell.ofBool (alignmentColour (ring r c p.1 p.2))) ∧
    (inFinder (sideOf version) r c = false → (∀ p ∈ alignmentCentres version, ¬ ring r c p.1 p.2 ≤ 2) →
      g'.cell r c = .unset) := by
  have hmc : 21 ≤ sideOf version := by simp only [sideOf]; omega
  have hfinders {r c : Nat} (hr : r < sideOf version) (hc : c < sideOf version) := placeFinders_cell hg hr hc hmc
  have hin : ∀ p ∈ alignmentPairs version, p.1 < sideOf version ∧ p.2 < sideOf version := fun p hp => by
    obtain ⟨h1, h2⟩ := mem_alignmentPairs.mp hp
    obtain ⟨-, hpos⟩ := alignmentPositions_spec hv
    have := hpos _ h1
    have := hpos _ h2
    omega
  obtain ⟨hsome, hnone⟩ := foldl_placeAlignmentAt_cell (r := r) (c := c) hr hc
    (g := placeFinders (sideOf version) g) (keep := fun p => !inFinder (sideOf version) p.1 p.2)
    (placeFinders_keeps square_put hg)
    (alignmentPairs_apart hv) hin (fun p hp => by
      obtain ⟨hin1, hin2⟩ := hin p hp
      obtain ⟨hset, hfree⟩ := hfinders hin1 hin2
      cases hf : inFinder (sideOf version) p.1 p.2 with
      | true =>
        obtain ⟨f, hmem, hle⟩ := inFinder_iff.mp hf
        simp [hset f hmem hle, GridCell.ofBool_ne_unset]
      | false => simp [hfree hf, hblank _ hin1 _ hin2])
  rw [← alignmentCentres_eq, ← placeAlignment_eq] at hsome hnone
  obtain ⟨hset, hfree⟩ := hfinders hr hc
  refine ⟨fun p hp hle => ?_, hsome, fun hf h => by rw [hnone h, hfree hf, hblank r hr c hc]⟩
  rw [hnone, hset p hp hle]
  intro q hq hle'
  have hapart := (alignmentCentre_of_mem hv hq).apart p hp
  rw [← Nat.not_le, ring_le_iff] at hapart
  rw [ring_le_iff] at hle hle'
  omega

/-! ## The timing pattern -/

/-- A cell that is free takes a colour. -/
def GridCell.fill (dark : Bool) (cell : GridCell) : GridCell := if cell = .unset then .ofBool dark else cell

theorem GridCell.fill_fill (dark dark' : Bool) (cell : GridCell) : (cell.fill dark).fill dark' = cell.fill dark := by
  cases dark <;> cases cell <;> rfl

section
variable {mc r c : Nat} {g : Grid} (hg : g.square mc) (hr : r < mc) (hc : c < mc)
include hg hr hc

theorem putUnset_cell {row col : Nat} {dark : Bool} :
    (row = r ∧ col = c → (g.putUnset row col dark).cell r c = (g.cell r c).fill dark) ∧
      (¬ (row = r ∧ col = c) → (g.putUnset row col dark).cell r c = g.cell r c) := by
  have hput := Grid.cell_put_int hg hr hc row col dark
  simp only [Int.natCast_inj] at hput
  unfold Grid.putUnset GridCell.fill
  refine ⟨?_, fun h => ?_⟩
  · rintro ⟨rfl, rfl⟩
    split
    · rw [hput, if_pos ⟨rfl, rfl⟩]
    · rfl
  · split
    · rw [hput, if_neg h]
    · rfl

/-- A line of cells that each take their colour while they are free. -/
theorem foldl_putUnset_cell {row col : Nat → Nat} {dark : Nat → Bool} {b : Bool}
    (hdark : ∀ k, row k = r → col k = c → dark k = b) :
    ((∃ k < mc, row k = r ∧ col k = c) →
      ((List.range mc).foldl (fun g k => g.putUnset (row k) (col k) (dark k)) g).cell r c = (g.cell r c).fill b) ∧
    ((∀ k < mc, ¬ (row k = r ∧ col k = c)) →
      ((List.range mc).foldl (fun g k => g.putUnset (row k) (col k) (dark k)) g).cell r c = g.cell r c) := by
  obtain ⟨hsome, hnone⟩ := Grid.cell_foldl (r := r) (c := c) (l := List.range mc)
    (step := fun g k => g.putUnset (row k) (col k) (dark k)) (f := GridCell.fill b)
    (hit := fun k => row k = r ∧ col k = c) hg (GridCell.fill_fill b b)
    (fun _ _ hg => putUnset_keeps square_put hg)
    (fun k _ _ hg h => by rw [(putUnset_cell hg hr hc).1 h, hdark k h.1 h.2])
    (fun k _ _ hg h => (putUnset_cell hg hr hc).2 h)
  simpa only [List.mem_range] using And.intro hsome hnone

/-- The timing pattern takes the free cells of column 6 and of row 6 (rule R255). -/
theorem placeTiming_cell :
    (placeTiming mc g).cell r c =
      if c = 6 then (g.cell r c).fill (r % 2 == 0)
      else if r = 6 then (g.cell r c).fill (c % 2 == 0)
      else g.cell r c := by
  obtain ⟨hcolumn, hother⟩ := foldl_putUnset_cell hg hr hc (row := fun k => k) (col := fun _ => 6)
    (dark := fun k => k % 2 == 0) (b := r % 2 == 0) (fun k hk _ => by rw [← hk])
  have hsquare : ((List.range mc).foldl (fun g k => g.putUnset k 6 (k % 2 == 0)) g).square mc :=
    List.foldlRecOn (motive := (Grid.square · mc)) _ _ hg fun _ hg _ _ => putUnset_keeps square_put hg
  obtain ⟨hrow, hother'⟩ := foldl_putUnset_cell hsquare hr hc (row := fun _ => 6) (col := fun k => k)
    (dark := fun k => k % 2 == 0) (b := c % 2 == 0) (fun k _ hk => by rw [← hk])
  have hcell : (placeTiming mc g).cell r c = ((List.range mc).foldl (fun g k => g.putUnset 6 k (k % 2 == 0))
      ((List.range mc).foldl (fun g k => g.putUnset k 6 (k % 2 == 0)) g)).cell r c := rfl
  rw [hcell]
  by_cases h6 : c = 6
  · rw [if_pos h6]
    by_cases hr6 : r = 6
    · rw [hrow ⟨c, hc, hr6.symm, rfl⟩, hcolumn ⟨r, hr, rfl, h6.symm⟩, GridCell.fill_fill]
    · rw [hother' fun _ _ h => hr6 h.1.symm, hcolumn ⟨r, hr, rfl, h6.symm⟩]
  · rw [if_neg h6]
    split
    next hr6 => rw [hrow ⟨c, hc, hr6.symm, rfl⟩, hother fun _ _ h => h6 h.2.symm]
    next hr6 => rw [hother' fun _ _ h => hr6 h.1.symm, hother fun _ _ h => h6 h.2.symm]

end

/-! ## The format and the version blocks -/

/-- The rows of column 8 that take format bits are those of rule R261. -/
theorem formatRows_eq {mc : Nat} (hmc : 21 ≤ mc) : formatRows mc = (List.range 15).map (vrow mc) := by
  obtain ⟨n, rfl⟩ := Nat.exists_eq_add_of_le' hmc
  rfl

/-- The columns of row 8 that take format bits are those of rule R261. -/
theorem formatColumns_eq {mc : Nat} (hmc : 21 ≤ mc) : formatColumns mc = (List.range 15).map (hcol mc) := by
  obtain ⟨n, rfl⟩ := Nat.exists_eq_add_of_le' hmc
  rfl

theorem vrow_cases {mc i : Nat} (hmc : 21 ≤ mc) :
    (i ≤ 5 ∧ vrow mc i = i) ∨ (5 < i ∧ i ≤ 7 ∧ vrow mc i = i + 1) ∨ (7 < i ∧ vrow mc i + 15 = mc + i) := by
  unfold vrow
  split_ifs <;> omega

theorem hcol_cases {mc i : Nat} (hmc : 21 ≤ mc) :
    (i ≤ 7 ∧ hcol mc i + 1 + i = mc) ∨ (i = 8 ∧ hcol mc i = 7) ∨ (8 < i ∧ hcol mc i = 14 - i) := by
  unfold hcol
  split_ifs <;> omega

/-- A cell takes a format bit, or is the dark module (rules R260, R261, R263). -/
def inFormat (mc r c : Nat) : Prop :=
  (c = 8 ∧ r ∈ formatRows mc) ∨ (r = 8 ∧ c ∈ formatColumns mc) ∨ (r = mc - 8 ∧ c = 8)

/-- The format cells stand in row 8 and column 8, beside the finders and off the timing pattern. -/
theorem inFormat_bounds {mc r c : Nat} (hmc : 21 ≤ mc) (h : inFormat mc r c) :
    (c = 8 ∧ r ≠ 6 ∧ (r ≤ 8 ∨ mc ≤ r + 8)) ∨ (r = 8 ∧ c ≠ 6 ∧ (c ≤ 8 ∨ mc ≤ c + 8)) := by
  simp only [inFormat, formatRows, formatColumns, List.mem_cons, List.not_mem_nil, or_false] at h
  omega

/-- A cell of a version block, and of its mirror image (rule R265). -/
def inVersion (version mc r c : Nat) : Prop :=
  7 ≤ version ∧ ((r < 6 ∧ mc - 11 ≤ c ∧ c ≤ mc - 9) ∨ (c < 6 ∧ mc - 11 ≤ r ∧ r ≤ mc - 9))

section
variable {mc r c : Nat} {g : Grid} {test : Bool} (hg : g.square mc) (hmc : 21 ≤ mc) (hr : r < mc) (hc : c < mc)
include hg hr hc

/-- Pairs of writes of one colour each. -/
theorem foldl_putPair_cell {n : Nat} {row col row' col' : Nat → Nat} {dark : Nat → Bool} {b : Bool}
    (hdark : ∀ i < n, row i = r ∧ col i = c ∨ row' i = r ∧ col' i = c → dark i = b) :
    let g' := (List.range n).foldl (fun g i => (g.put (row i) (col i) (dark i)).put (row' i) (col' i) (dark i)) g
    ((∃ i < n, row i = r ∧ col i = c ∨ row' i = r ∧ col' i = c) → g'.cell r c = GridCell.ofBool b) ∧
      ((∀ i < n, ¬ (row i = r ∧ col i = c ∨ row' i = r ∧ col' i = c)) → g'.cell r c = g.cell r c) := by
  have hput {g : Grid} (hg : g.square mc) (row col : Nat) (dark : Bool) :=
    Grid.cell_put_int hg hr hc (row : Int) (col : Int) dark
  simp only [Int.natCast_inj] at hput
  obtain ⟨hsome, hnone⟩ := Grid.cell_foldl (r := r) (c := c) (l := List.range n)
    (step := fun g i => (g.put (row i) (col i) (dark i)).put (row' i) (col' i) (dark i))
    (f := fun _ => GridCell.ofBool b) (hit := fun i => row i = r ∧ col i = c ∨ row' i = r ∧ col' i = c) hg
    (fun _ => rfl) (fun _ _ hg => Grid.square_put (Grid.square_put hg _ _ _) _ _ _)
    (fun i hi g hg h => by
      rw [hput (Grid.square_put hg _ _ _), hput hg, hdark i (List.mem_range.mp hi) h]
      split
      · rfl
      · rw [if_pos (h.resolve_right ‹_›)])
    (fun i _ g hg h => by
      obtain ⟨h1, h2⟩ := not_or.mp h
      rw [hput (Grid.square_put hg _ _ _), hput hg, if_neg h1, if_neg h2])
  simpa only [List.mem_range] using And.intro hsome hnone

/-- The version blocks (rules R265, R266). -/
theorem placeVersion_cell {version : Nat} (hv : 7 ≤ version → 45 ≤ mc) :
    let g' := placeVersion rom mc version test g
    let bits := bchVersion rom version
    (7 ≤ version → ∀ i < 18, i / 3 = r ∧ i % 3 + mc - 11 = c ∨ i % 3 + mc - 11 = r ∧ i / 3 = c →
      g'.cell r c = GridCell.ofBool (!test && bits.testBit i)) ∧
    (¬ inVersion version mc r c → g'.cell r c = g.cell r c) := by
  dsimp only
  have hblank : (!(test && rom.verInfoBlankInTest)) = !test := by
    rw [show rom.verInfoBlankInTest = true from rfl, Bool.and_true]
  unfold placeVersion
  split
  next h7 => exact ⟨fun h => absurd h (Nat.not_le.mpr h7), fun _ => rfl⟩
  next h7 =>
    have hlarge := hv (Nat.not_lt.mp h7)
    rw [hblank]
    have hblocks (b : Bool) := foldl_putPair_cell hg hr hc (b := b) (n := 18) (row := fun i => i / 3)
      (col := fun i => i % 3 + mc - 11)
      (row' := fun i => i % 3 + mc - 11) (col' := fun i => i / 3)
      (dark := fun i => !test && (bchVersion rom version).testBit i)
    refine ⟨fun _ i hi h => ?_, fun h => ?_⟩
    · obtain ⟨hhit, -⟩ := hblocks (!test && (bchVersion rom version).testBit i) (fun j hj h' => by
        rw [show i = j by omega])
      exact hhit ⟨i, hi, h⟩
    · have hmiss : ∀ i < 18, ¬ (i / 3 = r ∧ i % 3 + mc - 11 = c ∨ i % 3 + mc - 11 = r ∧ i / 3 = c) :=
        fun i hi h' => h ⟨Nat.not_lt.mp h7, by omega⟩
      obtain ⟨-, hother⟩ := hblocks false (fun i hi h' => absurd h' (hmiss i hi))
      exact hother hmiss

include hmc

/-- The format strips and the dark module (rules R260 to R263). -/
theorem placeFormat_cell (level : Nat) (mask : Fin 8) :
    let g' := placeFormat rom mc level test mask g
    let bits := bchFormat rom (formatData rom level mask)
    (∀ i < 15, vrow mc i = r ∧ 8 = c ∨ 8 = r ∧ hcol mc i = c →
      g'.cell r c = GridCell.ofBool (!test && bits.testBit i)) ∧
    (r = mc - 8 ∧ c = 8 → g'.cell r c = GridCell.ofBool (!test)) ∧
    (¬ inFormat mc r c → g'.cell r c = g.cell r c) := by
  dsimp only
  have hstrips (b : Bool) := foldl_putPair_cell hg hr hc (b := b) (n := 15) (row := vrow mc) (col := fun _ => 8)
    (row' := fun _ => 8) (col' := hcol mc) (dark := fun i => !test && (bchFormat rom (formatData rom level mask)).testBit i)
  have hsquare : ((List.range 15).foldl (fun g i =>
      (g.put (vrow mc i) (8 : Nat) (!test && (bchFormat rom (formatData rom level mask)).testBit i)).put (8 : Nat)
        (hcol mc i) (!test && (bchFormat rom (formatData rom level mask)).testBit i)) g).square mc :=
    List.foldlRecOn (motive := (Grid.square · mc)) _ _ hg fun _ hg _ _ =>
      Grid.square_put (Grid.square_put hg _ _ _) _ _ _
  have hdark := Grid.cell_put_int hsquare hr hc (mc - 8 : Nat) (8 : Nat) (!test)
  simp only [Int.natCast_inj] at hdark
  refine ⟨fun i hi h => ?_, fun h => ?_, fun h => ?_⟩
  · obtain ⟨hhit, -⟩ := hstrips (!test && (bchFormat rom (formatData rom level mask)).testBit i) (fun j hj h' => by
      have hij : i = j := by
        have := vrow_cases (i := i) hmc
        have := vrow_cases (i := j) hmc
        have := hcol_cases (i := i) hmc
        have := hcol_cases (i := j) hmc
        omega
      rw [hij])
    refine (hdark.trans (if_neg ?_)).trans (hhit ⟨i, hi, h⟩)
    have := vrow_cases (i := i) hmc
    have := hcol_cases (i := i) hmc
    omega
  · exact hdark.trans (if_pos ⟨h.1.symm, h.2.symm⟩)
  · have hmiss : ∀ i < 15, ¬ (vrow mc i = r ∧ 8 = c ∨ 8 = r ∧ hcol mc i = c) := by
      rintro i hi (⟨hrow, hcol⟩ | ⟨hrow, hcol⟩)
      · exact h (.inl ⟨hcol.symm, formatRows_eq hmc ▸ hrow ▸ List.mem_map_of_mem (List.mem_range.mpr hi)⟩)
      · exact h (.inr (.inl ⟨hrow.symm, formatColumns_eq hmc ▸ hcol ▸ List.mem_map_of_mem (List.mem_range.mpr hi)⟩))
    obtain ⟨-, hother⟩ := hstrips false (fun i hi h' => absurd h' (hmiss i hi))
    exact (hdark.trans (if_neg fun h' => h (.inr (.inr ⟨h'.1.symm, h'.2.symm⟩)))).trans (hother hmiss)

end

/-! ## The regions are disjoint -/

section
variable {mc r c : Nat}

theorem finder_disjoint {version : Nat} {p : Nat × Nat} (hmc : 21 ≤ mc) (hv : 7 ≤ version → 45 ≤ mc)
    (hp : p ∈ finderCentres mc) (h : ring r c p.1 p.2 ≤ 4) : ¬ inFormat mc r c ∧ ¬ inVersion version mc r c := by
  rw [ring_le_iff] at h
  simp only [finderCentres, List.mem_cons, List.not_mem_nil, or_false] at hp
  constructor
  · intro hformat
    have := inFormat_bounds hmc hformat
    obtain rfl | rfl | rfl := hp <;> dsimp only at h <;> omega
  · rintro ⟨h7, hversion⟩
    have := hv h7
    obtain rfl | rfl | rfl := hp <;> dsimp only at h <;> omega

theorem alignment_disjoint {version : Nat} {p : Nat × Nat} (hmc : 21 ≤ mc) (hv : 7 ≤ version → 45 ≤ mc)
    (hp : AlignmentCentre mc p) (h : ring r c p.1 p.2 ≤ 2) : ¬ inFormat mc r c ∧ ¬ inVersion version mc r c := by
  obtain ⟨hrow, hcol, -, hapart⟩ := hp
  simp only [← Nat.not_le, ring_le_iff] at hapart
  have htop := hapart (3, 3) (by simp [finderCentres])
  have hbottom := hapart (mc - 4, 3) (by simp [finderCentres])
  have hright := hapart (3, mc - 4) (by simp [finderCentres])
  dsimp only at htop hbottom hright
  rw [ring_le_iff] at h
  constructor
  · intro hformat
    have := inFormat_bounds hmc hformat
    omega
  · rintro ⟨h7, hversion⟩
    have := hv h7
    omega

theorem format_disjoint {version : Nat} (hmc : 21 ≤ mc) (hv : 7 ≤ version → 45 ≤ mc) (h : inFormat mc r c) :
    ¬ inVersion version mc r c := by
  rintro ⟨h7, hversion⟩
  have := hv h7
  have := inFormat_bounds hmc h
  omega

end

end Sys2Proof.Machine
end

section
/-! SUPPORT. `GRID.STRUCT` cell by cell (rules R252 to R268): each pattern of a blank grid stays as it is placed, and
the cells outside the patterns stay `Unset`. -/

namespace Sys2Proof.Machine

open Sys2Proof.Reference

theorem GridCell.fill_ofBool (b dark : Bool) : (GridCell.ofBool dark).fill b = .ofBool dark :=
  if_neg (GridCell.ofBool_ne_unset dark)

/-- The side of a legal version, and of one that has version blocks. -/
theorem sideOf_bounds {version : Nat} (hv : 1 ≤ version) :
    21 ≤ sideOf version ∧ (7 ≤ version → 45 ≤ sideOf version) := by
  simp only [sideOf]
  omega

/-- The first three steps keep the grid square. -/
theorem square_steps {version mc : Nat} {g : Grid} (hg : g.square mc) (h6 : 6 < mc) :
    (placeAlignment rom version (placeFinders mc g)).square mc ∧
      (placeTiming mc (placeAlignment rom version (placeFinders mc g))).square mc := by
  have h2 := placeAlignment_keeps square_put (version := version) (placeFinders_keeps square_put (mc := mc) hg)
  exact ⟨h2, (placeTiming_set h2 h6).1⟩

/-- A cell of no structural region lies outside each of them. -/
theorem isStructural_eq_false {version r c : Nat} (h : isStructural version r c = false) :
    inFinder (sideOf version) r c = false ∧ (∀ p ∈ alignmentCentres version, ¬ ring r c p.1 p.2 ≤ 2) ∧
      (r ≠ 6 ∧ c ≠ 6) ∧ ¬ inFormat (sideOf version) r c ∧ ¬ inVersion version (sideOf version) r c := by
  simp only [isStructural, Bool.or_eq_false_iff, Bool.and_eq_false_iff, List.any_eq_false, beq_eq_false_iff_ne,
    decide_eq_false_iff_not, decide_eq_true_eq, List.contains_eq_mem] at h
  obtain ⟨⟨⟨⟨⟨⟨⟨hfinder, halignment⟩, hr⟩, hc⟩, hrows⟩, hcolumns⟩, hdark⟩, hversion⟩ := h
  refine ⟨hfinder, halignment, ⟨hr, hc⟩, ?_, ?_⟩
  · rintro (⟨hc, hmem⟩ | ⟨hr, hmem⟩ | ⟨hr, hc⟩)
    · exact hrows.elim (absurd hc) (absurd hmem)
    · exact hcolumns.elim (absurd hr) (absurd hmem)
    · exact hdark.elim (absurd hr) (absurd hc)
  · unfold inVersion
    omega

section
variable {version level r c : Nat} {test : Bool} {mask : Fin 8} {g : Grid} (hv : 1 ≤ version ∧ version ≤ 40)
  (hg : g.square (sideOf version)) (hr : r < sideOf version) (hc : c < sideOf version)
include hv hg hr hc

/-- The format strips and the dark module stay as they are placed. -/
theorem structuralPatterns_format :
    let g' := structuralPatterns rom (sideOf version) version level test mask g
    let bits := bchFormat rom (formatData rom level mask)
    (∀ i < 15, vrow (sideOf version) i = r ∧ 8 = c ∨ 8 = r ∧ hcol (sideOf version) i = c →
      g'.cell r c = GridCell.ofBool (!test && bits.testBit i)) ∧
    (r = sideOf version - 8 ∧ c = 8 → g'.cell r c = GridCell.ofBool (!test)) := by
  obtain ⟨hmc, hlarge⟩ := sideOf_bounds hv.1
  obtain ⟨-, h3⟩ := square_steps (version := version) hg (by omega)
  obtain ⟨hstrip, hdark, -⟩ := placeFormat_cell (test := test) h3 hmc hr hc level mask
  obtain ⟨-, hkept⟩ := placeVersion_cell (test := test)
    (placeFormat_keeps square_put (mc := sideOf version) (level := level) (test := test)
      (mask := mask) h3) hr hc hlarge
  refine ⟨fun i hi h => ?_, fun h => ?_⟩
  · have hformat : inFormat (sideOf version) r c := by
      have hi' := List.mem_range.mpr hi
      obtain ⟨rfl, rfl⟩ | ⟨rfl, rfl⟩ := h
      · exact .inl ⟨rfl, formatRows_eq hmc ▸ List.mem_map_of_mem hi'⟩
      · exact .inr (.inl ⟨rfl, formatColumns_eq hmc ▸ List.mem_map_of_mem hi'⟩)
    exact (hkept (format_disjoint hmc hlarge hformat)).trans (hstrip i hi h)
  · exact (hkept (format_disjoint hmc hlarge (.inr (.inr h)))).trans (hdark h)

/-- The version blocks are placed last (rule R265). -/
theorem structuralPatterns_version (h7 : 7 ≤ version) {i : Nat} (hi : i < 18)
    (h : i / 3 = r ∧ i % 3 + sideOf version - 11 = c ∨ i % 3 + sideOf version - 11 = r ∧ i / 3 = c) :
    (structuralPatterns rom (sideOf version) version level test mask g).cell r c =
      GridCell.ofBool (!test && (bchVersion rom version).testBit i) := by
  obtain ⟨hmc, hlarge⟩ := sideOf_bounds hv.1
  obtain ⟨-, h3⟩ := square_steps (version := version) hg (by omega)
  exact (placeVersion_cell (placeFormat_keeps square_put h3) hr hc hlarge).1 h7 i hi h

/-- Outside the format and the version blocks a cell is as the first three steps leave it. -/
theorem structuralPatterns_outside (hformat : ¬ inFormat (sideOf version) r c)
    (hversion : ¬ inVersion version (sideOf version) r c) :
    let g' := placeAlignment rom version (placeFinders (sideOf version) g)
    (structuralPatterns rom (sideOf version) version level test mask g).cell r c =
      if c = 6 then (g'.cell r c).fill (r % 2 == 0)
      else if r = 6 then (g'.cell r c).fill (c % 2 == 0)
      else g'.cell r c := by
  obtain ⟨hmc, hlarge⟩ := sideOf_bounds hv.1
  obtain ⟨h2, h3⟩ := square_steps (version := version) hg (by omega)
  obtain ⟨-, -, hkept⟩ := placeFormat_cell (test := test) h3 hmc hr hc level mask
  obtain ⟨-, hkept'⟩ := placeVersion_cell (test := test)
    (placeFormat_keeps square_put (mc := sideOf version) (level := level) (test := test)
      (mask := mask) h3) hr hc hlarge
  exact (hkept' hversion).trans ((hkept hformat).trans (placeTiming_cell h2 hr hc))

/-- A cell that a finder or an alignment pattern has set keeps its colour. -/
theorem structuralPatterns_of_set {dark : Bool} (hformat : ¬ inFormat (sideOf version) r c)
    (hversion : ¬ inVersion version (sideOf version) r c)
    (h : (placeAlignment rom version (placeFinders (sideOf version) g)).cell r c = GridCell.ofBool dark) :
    (structuralPatterns rom (sideOf version) version level test mask g).cell r c = GridCell.ofBool dark := by
  rw [structuralPatterns_outside hv hg hr hc hformat hversion]
  simp only [h, GridCell.fill_ofBool, ite_self]

variable (hblank : ∀ r < sideOf version, ∀ c < sideOf version, g.cell r c = .unset)
include hblank

theorem structuralPatterns_finder {p : Nat × Nat} (hp : p ∈ finderCentres (sideOf version))
    (h : ring r c p.1 p.2 ≤ 4) :
    (structuralPatterns rom (sideOf version) version level test mask g).cell r c =
      GridCell.ofBool (finderColour (ring r c p.1 p.2)) := by
  obtain ⟨hmc, hlarge⟩ := sideOf_bounds hv.1
  obtain ⟨hformat, hversion⟩ := finder_disjoint hmc hlarge hp h
  exact structuralPatterns_of_set hv hg hr hc hformat hversion ((placeAlignment_cell hv hg hblank hr hc).1 p hp h)

theorem structuralPatterns_alignment {p : Nat × Nat} (hp : p ∈ alignmentCentres version)
    (h : ring r c p.1 p.2 ≤ 2) :
    (structuralPatterns rom (sideOf version) version level test mask g).cell r c =
      GridCell.ofBool (alignmentColour (ring r c p.1 p.2)) := by
  obtain ⟨hmc, hlarge⟩ := sideOf_bounds hv.1
  obtain ⟨hformat, hversion⟩ := alignment_disjoint hmc hlarge (alignmentCentre_of_mem hv hp) h
  exact structuralPatterns_of_set hv hg hr hc hformat hversion ((placeAlignment_cell hv hg hblank hr hc).2.1 p hp h)

/-- The cells of no structural region stay `Unset` (rule R42). -/
theorem structuralPatterns_unset (h : isStructural version r c = false) :
    (structuralPatterns rom (sideOf version) version level test mask g).cell r c = .unset := by
  obtain ⟨hfinder, halignment, ⟨hr6, hc6⟩, hformat, hversion⟩ := isStructural_eq_false h
  rw [structuralPatterns_outside hv hg hr hc hformat hversion, if_neg hc6, if_neg hr6]
  exact (placeAlignment_cell hv hg hblank hr hc).2.2 hfinder halignment

variable {k : Nat} (hline : c = 6 ∧ r = k ∨ r = 6 ∧ c = k) (h8 : 8 ≤ k) (hk : k + 8 < sideOf version)
include hline h8 hk

omit hg hr hc hblank in
/-- The timing line between the finders meets no finder, no format cell and no version block. -/
theorem timing_disjoint : inFinder (sideOf version) r c = false ∧ ¬ inFormat (sideOf version) r c ∧
    ¬ inVersion version (sideOf version) r c := by
  obtain ⟨hmc, -⟩ := sideOf_bounds hv.1
  refine ⟨?_, fun h => ?_, ?_⟩
  · rw [← Bool.not_eq_true, inFinder_iff]
    rintro ⟨p, hp, hle⟩
    rw [ring_le_iff] at hle
    simp only [finderCentres, List.mem_cons, List.not_mem_nil, or_false] at hp
    obtain rfl | rfl | rfl := hp <;> dsimp only at hle <;> omega
  · have := inFormat_bounds hmc h
    omega
  · unfold inVersion
    omega

/-- Between the finders the alignment patterns on the timing line have the timing pattern's colours. -/
theorem placeAlignment_fill :
    ((placeAlignment rom version (placeFinders (sideOf version) g)).cell r c).fill (k % 2 == 0) =
      GridCell.ofBool (k % 2 == 0) := by
  obtain ⟨-, halignment, hfree⟩ := placeAlignment_cell hv hg hblank hr hc
  by_cases h : ∃ p ∈ alignmentCentres version, ring r c p.1 p.2 ≤ 2
  · obtain ⟨p, hp, hle⟩ := h
    obtain ⟨hrow, hcol, heven, -⟩ := alignmentCentre_of_mem hv hp
    have hcolour : alignmentColour (ring r c p.1 p.2) = (k % 2 == 0) := by
      rw [ring_le_iff] at hle
      rw [alignmentColour, bne, Bool.eq_iff_iff]
      simp only [Bool.not_eq_true', beq_eq_false_iff_ne, ne_eq, beq_iff_eq, ring, apart]
      omega
    rw [halignment p hp hle, GridCell.fill_ofBool, hcolour]
  · obtain ⟨hfinder, -⟩ := timing_disjoint hv hline h8 hk
    rw [hfree hfinder fun p hp hle => h ⟨p, hp, hle⟩]
    rfl

/-- The timing pattern between the finders (rule R255). -/
theorem structuralPatterns_timing :
    (structuralPatterns rom (sideOf version) version level test mask g).cell r c = GridCell.ofBool (k % 2 == 0) := by
  obtain ⟨-, hformat, hversion⟩ := timing_disjoint hv hline h8 hk
  rw [structuralPatterns_outside hv hg hr hc hformat hversion,
    ← placeAlignment_fill hv hg hr hc hblank hline h8 hk]
  obtain ⟨rfl, rfl⟩ | ⟨rfl, rfl⟩ := hline
  · rw [if_pos rfl]
  · rw [if_neg (by omega), if_pos rfl]

end

/-! ## The printed words -/

/-- The format data word of a level and a mask pattern (rule R262). -/
theorem formatData_eq : ∀ level < 4, ∀ mask : Fin 8, formatData rom level mask = 8 * levelCode level + mask.val := by
  decide

theorem formatWord_eq {level : Nat} (hlevel : level < 4) (mask : Fin 8) :
    formatWords.getD (8 * levelCode level + mask.val) 0 = bchFormat rom (formatData rom level mask) := by
  have hcode : ∀ level < 4, levelCode level < 4 := by decide
  have := hcode level hlevel
  rw [formatData_eq level hlevel, List.getD_eq_getElem?_getD, formatWords_getElem? _ (by omega), Option.getD_some]

theorem versionWord_eq {version : Nat} (hv : version ≤ 40) : versionWords.getD version 0 = bchVersion rom version := by
  rw [List.getD_eq_getElem?_getD, versionWords_getElem? _ (by omega), Option.getD_some]

/-! ## The command -/

/-- A blank grid has the side of a version and only `Unset` cells. -/
theorem blank_of_gridMatchesPhase {s : State} (h : s.gridMatchesPhase) (hphase : s.phase = .empty) (h0 : s.modCnt ≠ 0)
    (hside : s.modCnt = sideOf s.version.toNat) :
    (1 ≤ s.version.toNat ∧ s.version.toNat ≤ 40) ∧ s.grid.square (sideOf s.version.toNat) ∧
      ∀ r < sideOf s.version.toNat, ∀ c < sideOf s.version.toNat, s.grid.cell r c = .unset := by
  obtain ⟨hlegal, hsquare, -, hblank, -⟩ := h
  obtain ⟨v, hv, hmc⟩ := hlegal.resolve_left h0
  rw [List.mem_range'_1] at hv
  rw [← hside]
  refine ⟨?_, hsquare, (Grid.forall_mem_iff hsquare _).mp (hblank hphase)⟩
  rw [hside] at hmc
  simp only [sideOf] at hmc
  omega

/-- Settles O52: the patterns of a blank grid, each in the cells where the ones after it leave it as it is. -/
theorem gridStructPlacesTheStructuralPatterns : Obligations.GridStructPlacesTheStructuralPatterns := by
  unfold Obligations.GridStructPlacesTheStructuralPatterns
  intro test mask s t hf hgrid hexec ht
  have hbody := ok_of_exec (by nofun) hexec ht
  obtain ⟨-, h⟩ | ⟨-, -, h⟩ | ⟨hmask, hphase, h0, hside, h⟩ := bodyGridStruct_cases test mask s
  · cases h.symm.trans hbody
  · cases h.symm.trans hbody
  · obtain rfl := Except.ok.inj (h.symm.trans hbody)
    obtain ⟨hv, hg, hblank⟩ := blank_of_gridMatchesPhase hgrid hphase h0 hside
    obtain ⟨hmc, hlarge⟩ := sideOf_bounds hv.1
    dsimp only
    rw [hside, formatWord_eq s.level.isLt ⟨mask.toNat, hmask⟩, versionWord_eq hv.2]
    refine ⟨fun p hp r hr c hc => structuralPatterns_finder hv hg hr hc hblank hp,
      fun p hp r hr c hc => structuralPatterns_alignment hv hg hr hc hblank hp, fun k h8 hk => ?timing,
      fun i hi row col hrow hcol => ?strips, ?dark, fun h7 i hi => ?version,
      fun r hr c hc => structuralPatterns_unset hv hg hr hc hblank⟩
    case timing =>
      exact ⟨structuralPatterns_timing hv hg (by omega) (by omega) hblank (.inl ⟨rfl, rfl⟩) h8 hk,
        structuralPatterns_timing hv hg (by omega) (by omega) hblank (.inr ⟨rfl, rfl⟩) h8 hk⟩
    case strips =>
      rw [formatRows_eq hmc, List.getElem?_map, List.getElem?_range hi, Option.map_some, Option.some.injEq] at hrow
      rw [formatColumns_eq hmc, List.getElem?_map, List.getElem?_range hi, Option.map_some, Option.some.injEq] at hcol
      have := vrow_cases (i := i) hmc
      have := hcol_cases (i := i) hmc
      exact ⟨(structuralPatterns_format hv hg (by omega) (by omega)).1 i hi (.inl ⟨hrow, rfl⟩),
        (structuralPatterns_format hv hg (by omega) (by omega)).1 i hi (.inr ⟨rfl, hcol⟩)⟩
    case dark => exact (structuralPatterns_format hv hg (by omega) (by omega)).2 ⟨rfl, rfl⟩
    case version =>
      have := hlarge h7
      exact ⟨structuralPatterns_version hv hg (by omega) (by omega) h7 hi (.inl ⟨rfl, by omega⟩),
        structuralPatterns_version hv hg (by omega) (by omega) h7 hi (.inr ⟨by omega, rfl⟩)⟩

end Sys2Proof.Machine
end

section
/-! SUPPORT. The system commands (rules R300 to R304): the words of format I, and what `CSRR` and `CSRW` do by what the
read or the write of the numbered register answers. -/

namespace Sys2Proof.Machine

open Sys2Proof.Reference

/-- A word of format I is the sum of its fields, each at its place. -/
theorem packImm16_xBits (op : BitVec 8) (ra : XReg) (imm16 : BitVec 16) :
    packImm16 op (xBits ra) imm16 = commandWordI op.toNat ra imm16.toNat := by
  apply BitVec.eq_of_toNat_eq
  simp only [packImm16, commandWordI, toNat_append_eq_add, xBits_toNat, BitVec.ofNat_eq_ofNat,
    BitVec.toNat_ofNat]
  omega

/-! ## `RESET`, `NOP`, `SET` -/

/-- A faulted unit refuses every command but `RESET` (rule R92 step 1). -/
theorem exec_of_faulted {i : Instr} {s : State} (hi : i ≠ .reset) (hf : s.fault = true) : exec i s = .next s := by
  rw [exec_eq i s hi, complete_of_faulted hf]

/-- Settles O8: `RESET` is `State.clear`, and every other command ends in `complete`, which refuses it. -/
theorem resetClearsAllButElements : Obligations.ResetClearsAllButElements := by
  unfold Obligations.ResetClearsAllButElements
  exact ⟨by decide, exec_reset_eq, fun _ _ => exec_of_faulted⟩

theorem writeX_sext16 (s : State) (r : XReg) (imm16 : BitVec 16) :
    s.writeX r (sext16 imm16) = { s with x := s.x.set r (imm16.signExtend 32) } := rfl

/-- `NOP` leaves the state as it is, whether it is refused or executed. -/
theorem exec_nop_eq (s : State) : exec .nop s = .next s := by
  cases hf : s.fault
  · exact exec_of_ok nofun hf rfl
  · exact exec_of_faulted nofun hf

/-- Settles O26: `NOP` returns its state, and `SET` stores its immediate sign-extended. -/
theorem nopAndSetDoAsNamed : Obligations.NopAndSetDoAsNamed := by
  unfold Obligations.NopAndSetDoAsNamed
  refine ⟨by decide, exec_nop_eq, fun ra imm16 => ⟨packImm16_xBits 0x01 ra imm16, fun s hf => ?_⟩⟩
  rw [← writeX_sext16]
  exact exec_of_ok nofun hf rfl

/-! ## `CSRR` -/

theorem bodyCsrr_of_some {ra : XReg} {csr : BitVec 16} {s : State} {w : Word} (h : s.csrRead csr.toNat = some w) :
    bodyCsrr ra csr s = .ok (s.writeXWord ra w) := by
  rw [bodyCsrr, zext16, h]

theorem bodyCsrr_of_none {ra : XReg} {csr : BitVec 16} {s : State} (h : s.csrRead csr.toNat = none) :
    bodyCsrr ra csr s = raise s .illegalCommand (encode (.csrr ra csr)).toNat := by
  rw [bodyCsrr, zext16, h]

/-- Settles O27: the numbers below 17 are read, and no register answers a larger one. -/
theorem csrrReadsTheNumberedRegister : Obligations.CsrrReadsTheNumberedRegister := by
  unfold Obligations.CsrrReadsTheNumberedRegister
  refine fun ra csr => ⟨packImm16_xBits 0x03 ra csr, fun s hf => ⟨fun hle => ?_, fun hgt => ?_⟩⟩
  · exact exec_of_ok nofun hf (bodyCsrr_of_some (csrRead_inside s (Nat.lt_succ_of_le hle)))
  · exact exec_of_raise nofun rfl hf (bodyCsrr_of_none (csrRead_outside s hgt))

/-! ## `CSRW` -/

theorem csrWrite_txtLen (s : State) (w : Word) :
    s.csrWrite 12 w = lengthWrite Config.txtMax w.toInt fun n => { s with txtLen := n } := rfl

theorem csrWrite_segLen (s : State) (w : Word) :
    s.csrWrite 13 w = lengthWrite Config.segMax w.toInt fun n => { s with segLen := n, dcValid := false } := rfl

theorem csrWrite_stgLen (s : State) (w : Word) :
    s.csrWrite 15 w = lengthWrite Config.polyMax w.toInt fun n => { s with stgLen := n } := rfl

/-- Every number but the five of the writable registers takes no write (rule R304). -/
theorem csrWrite_notWritable (s : State) {n : Nat} (w : Word) (h4 : n ≠ 4) (h5 : n ≠ 5) (h12 : n ≠ 12)
    (h13 : n ≠ 13) (h15 : n ≠ 15) : s.csrWrite n w = .notWritable := by
  simp [State.csrWrite, *]

section
variable {csr : BitVec 16} {ra : XReg} {s : State} (hf : s.fault = false)
include hf

/-- `CSRW` completes with the state its write answers. -/
theorem exec_csrw_of_written {t : State} (h : s.csrWrite csr.toNat s.x[ra] = .written t) :
    exec (.csrw csr ra) s = .next t :=
  exec_of_ok nofun hf (by rw [bodyOf, bodyCsrw, zext16, h])

/-- `CSRW` of a value outside the register's range faults with the value. -/
theorem exec_csrw_of_outOfRange (h : s.csrWrite csr.toNat s.x[ra] = .outOfRange) :
    exec (.csrw csr ra) s = .next (faulted (encode (.csrw csr ra)) .operandRange s.x[ra].toInt s) :=
  exec_of_raise nofun rfl hf (by rw [bodyOf, bodyCsrw, zext16, h]; rfl)

/-- `CSRW` of a register that takes no write is an illegal command. -/
theorem exec_csrw_of_notWritable (h : s.csrWrite csr.toNat s.x[ra] = .notWritable) :
    exec (.csrw csr ra) s =
      .next (faulted (encode (.csrw csr ra)) .illegalCommand (encode (.csrw csr ra)).toNat s) :=
  exec_of_raise nofun rfl hf (by rw [bodyOf, bodyCsrw, zext16, h])

/-- `CSRW` of a length register stores a length within the capacity and faults with any other (rule R53). -/
theorem exec_csrw_of_length {capacity : Nat} {store : Nat → State}
    (h : s.csrWrite csr.toNat s.x[ra] = lengthWrite capacity s.x[ra].toInt store) :
    (0 ≤ s.x[ra].toInt → s.x[ra].toInt ≤ capacity →
      exec (.csrw csr ra) s = .next (store s.x[ra].toInt.toNat)) ∧
    (s.x[ra].toInt < 0 ∨ capacity < s.x[ra].toInt →
      exec (.csrw csr ra) s = .next (faulted (encode (.csrw csr ra)) .operandRange s.x[ra].toInt s)) :=
  ⟨fun h0 hle => exec_csrw_of_written hf (h.trans (if_neg (not_or.mpr ⟨h0.not_gt, hle.not_gt⟩))),
    fun hout => exec_csrw_of_outOfRange hf (h.trans (if_pos hout))⟩

end

/-- Settles O28: each clause is what `State.csrWrite` answers for its number, for a length register by its range. -/
theorem csrwWritesTheFiveWritableRegisters : Obligations.CsrwWritesTheFiveWritableRegisters := by
  unfold Obligations.CsrwWritesTheFiveWritableRegisters
  refine fun csr ra => ⟨packImm16_xBits 0x04 ra csr, fun s hf => ?_⟩
  have htxt := exec_csrw_of_length (csr := 12) (ra := ra) hf (csrWrite_txtLen s _)
  have hseg := exec_csrw_of_length (csr := 13) (ra := ra) hf (csrWrite_segLen s _)
  have hstg := exec_csrw_of_length (csr := 15) (ra := ra) hf (csrWrite_stgLen s _)
  refine ⟨?version, ?level, ?txtLen, ?segLen, ?stgLen, ?outside, ?other⟩
  case version | level =>
    rintro rfl
    exact exec_csrw_of_written hf rfl
  case txtLen =>
    rintro rfl
    exact htxt.1
  case segLen =>
    rintro rfl
    exact hseg.1
  case stgLen =>
    rintro rfl
    exact hstg.1
  case outside =>
    rintro (⟨rfl, hout⟩ | ⟨rfl, hout⟩ | ⟨rfl, hout⟩)
    · exact htxt.2 hout
    · exact hseg.2 hout
    · exact hstg.2 hout
  case other =>
    have toNat_ne {n : BitVec 16} (h : csr ≠ n) : csr.toNat ≠ n.toNat := mt BitVec.eq_of_toNat_eq h
    exact fun h4 h5 h12 h13 h15 => exec_csrw_of_notWritable hf (csrWrite_notWritable s _ (toNat_ne h4) (toNat_ne h5)
      (toNat_ne h12) (toNat_ne h13) (toNat_ne h15))

end Sys2Proof.Machine
end

section
/-! SUPPORT. The faulted state (rules R331, R336): what a faulted unit refuses, and that FAULT stays through everything
but a reset. -/

namespace Sys2Proof.Machine

theorem encode_reset : encode .reset = 0x02000000 := by decide

theorem decode_resetWord : decode 0x02000000 = .ok .reset := encode_reset ▸ decodeInvertsEncode .reset

/-- A faulted unit refuses every word but that of `RESET` (rule R331). -/
theorem issueWord_of_faulted {w : Word} {s : State} (hw : w ≠ 0x02000000) (hf : s.fault = true) :
    issueWord w s = .next s := by
  cases hd : decode w with
  | ok i =>
    have hi : i ≠ .reset := by
      rintro rfl
      exact hw ((decode_eq_ok hd).1.trans encode_reset)
    rw [issueWord, hd]
    exact exec_of_faulted hi hf
  | error e =>
    obtain ⟨-, hillegal⟩ | ⟨hnot, -⟩ := illegalWord_cases w s
    · rw [issueWord, hd, hillegal]
    · rw [hf] at hnot
      cases hnot

/-- The word of `RESET` clears the unit, faulted or not (rule R302). -/
theorem issueWord_reset (s : State) : issueWord 0x02000000 s = .next s.clear := by
  rw [issueWord, decode_resetWord]
  exact exec_reset_eq s

/-- Settles O6: a word that decodes is the word of its command, so every word but one is refused, decoded or not. -/
theorem faultedUnitRefusesAllButReset : Obligations.FaultedUnitRefusesAllButReset := by
  unfold Obligations.FaultedUnitRefusesAllButReset
  refine fun w s hf => ⟨fun hw => issueWord_of_faulted hw hf, ?_⟩
  rintro rfl
  exact ⟨s.clear, issueWord_reset s, State.clear_fault s, clear_atReset s⟩

theorem within_fault {s access : State} {capacity index : Nat} (h : access.fault = s.fault) :
    (s.within capacity index access).fault = s.fault := by
  unfold State.within
  split
  · exact h
  · rfl

/-- Of the host's accesses other than a read the reset input alone writes FAULT. -/
theorem hostAccess_fault {txn : HostTxn} (hread : txn.isRead = false) (hreset : txn ≠ .hardwareReset) (s : State) :
    (hostAccess txn s).fault = s.fault := by
  cases txn with
  | read => cases hread
  | hardwareReset => exact absurd rfl hreset
  | issue | writeReadOnly => rfl
  | writeX | writeStg | writeTxt | writeSeg => exact within_fault rfl
  | writeCsr index v =>
    simp only [hostAccess, State.hostWriteCsr]
    split
    next hw => rw [csrWrite_hostPart hw]; rfl
    next => rfl
    next => rfl

/-- A step whose transaction is neither the word of `RESET` nor the reset input leaves a faulted unit faulted. -/
theorem step_of_faulted {s t : State} {txn : HostTxn} {rest : List HostTxn} (hp : s.port = txn :: rest)
    (hf : s.fault = true) (hword : txn ≠ .issue 0x02000000) (hreset : txn ≠ .hardwareReset)
    (h : step s = .next t) : t.fault = true := by
  have htaken : (s.taken txn rest).fault = true := (State.taken_fault s txn rest).trans hf
  cases txn with
  | issue w =>
    have hissue : step s = .next (s.taken (.issue w) rest) := by
      simp only [step, hp, perform]
      exact issueWord_of_faulted (fun hw => hword (hw ▸ rfl)) htaken
    cases hissue.symm.trans h
    exact htaken
  | read sp k =>
    cases (step_read hp).symm.trans h
    exact hf
  | _ =>
    cases (step_hostAccess hp nofun).symm.trans h
    exact (hostAccess_fault rfl hreset _).trans htaken

/-- Settles O7: a unit that is not faulted after the step has taken one of the two resets, and both clear it. -/
theorem onlyResetLeavesTheFaultedState : Obligations.OnlyResetLeavesTheFaultedState := by
  unfold Obligations.OnlyResetLeavesTheFaultedState
  refine ⟨fun s t hf h ht => ?_, fun s => ⟨s.clear, exec_reset_eq s, State.clear_fault s⟩⟩
  cases hp : s.port with
  | nil =>
    cases (step_idle hp).symm.trans h
    rw [hf] at ht
    cases ht
  | cons txn rest =>
    by_cases hword : txn = .issue 0x02000000
    · subst hword
      cases (step_issue hp decode_resetWord).symm.trans h
      exact ⟨.inl ⟨rest, rfl⟩, clear_atReset _⟩
    · by_cases hreset : txn = .hardwareReset
      · subst hreset
        cases (step_hostAccess hp nofun).symm.trans h
        exact ⟨.inr ⟨rest, rfl⟩, clear_atReset _⟩
      · rw [step_of_faulted hp hf hword hreset h] at ht
        cases ht

end Sys2Proof.Machine
end

section
/-! SUPPORT. What a command that faults leaves (rule R330): the state with everything erased that a fault may change is
the same before and after it. It erases less than `State.beside`: no register that a command writes only when it
completes. -/

namespace Sys2Proof.Machine

open Sys2Proof.Reference

/-- The state without what a fault of a command may change: the buffers it writes, VERSION for `MAKE`, MASK for
`MAKEIMPL` and `MAKE`, and for every command the record, the flags, the grid and the epoch of the free values. -/
def State.besideFault (i : Instr) (s : State) : State := { s with
  seg := if i.writesSeg then [] else s.seg
  segLen := if i.writesSeg then 0 else s.segLen
  bb := if i.writesBb then .empty else s.bb
  cw := if i.writesCw then [] else s.cw
  version := if i == .make then 0 else s.version
  mask := if i.isMakeimpl || i == .make then 0 else s.mask
  grid := [], modCnt := 0, phase := .empty, fault := false, final := false, dcValid := false, testF := false
  cause := none, finfo := 0, fcmd := 0, freeIdx := 0 }

/-- The parts of `MAKEIMPL` write nothing that a fault of it may not change. -/
theorem besideFault_makeimpl_of_part {i : Instr} (hi : isLayoutPart i = true) (test : Bool) (mask : BitVec 4)
    (s : State) : (s.beside i).besideFault (.makeimpl test mask) = s.besideFault (.makeimpl test mask) := by
  cases i with
  | bbClr | dataSeg | dataFin | rsEnc | gridInit | gridStruct | gridMap => rfl
  | _ => cases hi

/-- The parts of `MAKE` that can raise, and those before them, write nothing that a fault of it may not change. -/
theorem besideFault_make_of_part {i : Instr} (hi : isLayoutPart i = true ∨ i = .segEnc) (s : State) :
    (s.beside i).besideFault .make = s.besideFault .make := by
  rcases hi with hi | rfl
  · cases i with
    | bbClr | dataSeg | dataFin | rsEnc | gridInit | gridStruct | gridMap => rfl
    | _ => cases hi
  · rfl

theorem besideFault_bodyMakeimpl (test : Bool) (mask : BitVec 4) (s : State) :
    EndsIn (fun u => u.besideFault (.makeimpl test mask) = s.besideFault (.makeimpl test mask)) (fun _ => True)
      (bodyMakeimpl rom test mask s) :=
  (bodyMakeimpl_endsIn_of_parts
    (P := fun u => u.besideFault (.makeimpl test mask) = s.besideFault (.makeimpl test mask))
    (fun i u t hi hu h => by
      rw [← besideFault_makeimpl_of_part hi, beside_completes h, besideFault_makeimpl_of_part hi, hu])
    test mask rfl).mono (fun _ h => h) fun _ _ => trivial

theorem besideFault_bodyMake (s : State) :
    EndsIn (fun u => u.besideFault .make = s.besideFault .make) (fun _ => True) (bodyMake rom s) := by
  have hpart : ∀ i u t, isLayoutPart i = true ∨ i = .segEnc → u.besideFault .make = s.besideFault .make →
      Completes u i t → t.besideFault .make = s.besideFault .make := fun i u t hi hu h => by
    rw [← besideFault_make_of_part hi, beside_completes h, besideFault_make_of_part hi, hu]
  exact bodyMake_endsIn_of_parts (Q := fun _ => True) (P := fun u => u.besideFault .make = s.besideFault .make)
    (fun i u t hi hu h => hpart i u t (.inl hi) hu h) (fun _ _ _ => trivial)
    (makeStart_endsIn rfl (fun u t hu h => hpart .segEnc u t (.inr rfl) hu h) fun _ _ h => h)
    fun _ _ _ _ _ _ _ => trivial

/-- The rule of a command, at its `raise`. -/
theorem besideFault_bodyOf (i : Instr) {s : State} {e : Stop} (h : bodyOf i s = .error e) :
    e.current.besideFault i = s.besideFault i := by
  cases hi : i.isMakeimpl with
  | true => cases i <;> cases hi; exact (besideFault_bodyMakeimpl _ _ s).error_of h
  | false =>
    by_cases hm : i = .make
    · subst hm
      exact (besideFault_bodyMake s).error_of h
    · rw [(bodyOf_raisesInPlace hi hm s).error_of h]

/-- What fault entry writes, and what it leaves free, are erased. -/
theorem besideFault_faultEntry (i : Instr) (w : Word) (c : Cause) (info : Int) (s : State) :
    (faultEntry w c info (outputsOf i c s)).besideFault i = s.besideFault i := by
  change (outputsOf i c s).besideFault i = s.besideFault i
  rcases outputsOf_cases i c s with h | ⟨hbb, h⟩ | ⟨rfl, h⟩ | ⟨hi, h⟩ | ⟨rfl, h⟩ <;> rw [h]
  · simp [State.besideFault, State.freeBb, State.nextEpoch, hbb]
  · rfl
  · cases i <;> cases hi; rfl
  · rfl

/-- A command that leaves the unit faulted has raised, and its fault has been taken. -/
theorem error_of_exec {i : Instr} {s t : State} (hf : s.fault = false) (h : exec i s = .next t)
    (ht : t.fault = true) :
    ∃ e, bodyOf i s = .error e ∧ t = faultEntry (encode i) e.cause e.info (outputsOf i e.cause e.current) := by
  obtain ⟨-, rfl⟩ | ⟨-, hfault, -⟩ | ⟨-, -, hb⟩ | ⟨-, -, he⟩ := exec_cases h
  · cases ht
  · rw [hf] at hfault; cases hfault
  · obtain ⟨hsame, -⟩ := sameRecord_of_ok hb
    rw [hsame, hf] at ht; cases ht
  · exact he

/-- A simple command leaves no buffer free. -/
theorem outputsOf_of_simple {i : Instr} (hi : i.composite = false) : outputsOf i = Outputs.kept := by
  cases i with
  | dataSeg | dataFin | rsEnc | makeimpl | make => cases hi
  | _ => rfl

/-- A simple command that faults changes nothing but what fault entry writes (rule R330(a)). -/
theorem exec_fault_of_simple {i : Instr} {s t : State} (hi : i.composite = false) (hf : s.fault = false)
    (h : exec i s = .next t) (ht : t.fault = true) : ∃ cause info, t = faulted (encode i) cause info s := by
  obtain ⟨e, hb, rfl⟩ := error_of_exec hf h ht
  have hparts : i.isMakeimpl = false ∧ i ≠ .make := by
    cases i with
    | makeimpl | make => cases hi
    | _ => exact ⟨rfl, nofun⟩
  have hcurrent : e.current = s := (bodyOf_raisesInPlace hparts.1 hparts.2 s).error_of hb
  exact ⟨e.cause, e.info, by rw [outputsOf_of_simple hi, Outputs.kept, hcurrent, faultEntry_eq_faulted]⟩

/-- The version that is taken: the smallest that holds the text for VERSION 0, else VERSION (rules R281, R288). -/
theorem resolvedVersion_eq_ok {text : List CodeUnit} {level : BitVec 2} {version v : BitVec 8}
    (h : resolvedVersion text level version = .ok v) :
    v = version ∨ (version = 0 ∧ smallestVersion level.toNat (segEnc text).length v.toNat) := by
  by_cases h0 : version = 0
  · subst h0
    by_cases hlen : (segEnc text).length ≤ capacity 40 level.toNat
    · obtain ⟨u, hsmallest, hu⟩ := resolvedVersion_zero hlen
      cases hu.symm.trans h
      exact .inr ⟨rfl, hsmallest⟩
    · cases (resolvedVersion_too_long (Nat.not_le.mp hlen)).symm.trans h
  · by_cases hv : 1 ≤ version.toNat ∧ version.toNat ≤ 40
    · cases (resolvedVersion_override h0 hv).symm.trans h
      exact .inl rfl
    · cases (resolvedVersion_outside h0 hv).symm.trans h

/-- VERSION at a `raise` of `MAKE`: as it was, or as it was selected (rules R281, R330(b)). -/
theorem version_of_make_error {s : State} {e : Stop} (h : bodyMake rom s = .error e) :
    e.current.version = s.version ∨
      (s.version = 0 ∧ smallestVersion s.level.toNat (segmentOf s.text).length e.current.version.toNat) := by
  rw [segmentOf_length]
  by_cases hlen : (segEnc s.text).length ≤ Config.segMax
  · cases hres : resolvedVersion s.text s.level s.version with
    | error r =>
      rw [bodyMake_of_no_version hlen hres] at h
      rw [raise_eq_error h]
      exact .inl rfl
    | ok v =>
      obtain ⟨-, q, -, hbody⟩ | ⟨-, u, rfl, hbody⟩ := bodyMake_cases hlen hres <;> rw [hbody] at h
      · cases h
      · rw [raise_eq_error h]
        exact resolvedVersion_eq_ok hres
  · rw [bodyMake_of_long (Nat.not_le.mp hlen)] at h
    rw [raise_eq_error h]
    exact .inl rfl

/-- Settles O10: fault entry writes the record whole, a simple command raises in the state before it, and the state
beside what a fault may change is the same before and after it. -/
theorem faultEntryRecordsAndDropsTheGrid : Obligations.FaultEntryRecordsAndDropsTheGrid := by
  unfold Obligations.FaultEntryRecordsAndDropsTheGrid
  intro i s t hf h ht
  obtain ⟨e, hb, he⟩ := error_of_exec hf h ht
  have hbeside : t.besideFault i = s.besideFault i := by
    rw [he, besideFault_faultEntry, besideFault_bodyOf i hb]
  refine ⟨by simp [he], fun hi => exec_fault_of_simple hi hf h ht,
    ⟨fun hseg => ⟨?_, ?_⟩, fun hbb => ?_, fun hcw => ?_, fun hm => ?_, fun hm => ?_, fun hi hm => ?_⟩, ?_⟩
  · simpa [State.besideFault, hseg] using congrArg State.seg hbeside
  · simpa [State.besideFault, hseg] using congrArg State.segLen hbeside
  · simpa [State.besideFault, hbb] using congrArg State.bb hbeside
  · simpa [State.besideFault, hcw] using congrArg State.cw hbeside
  · simpa [State.besideFault, hm] using congrArg State.version hbeside
  · subst hm
    rw [he, faultEntry_version, outputsOf_version]
    exact version_of_make_error hb
  · simpa [State.besideFault, hi, hm] using congrArg State.mask hbeside
  · exact ⟨(congrArg State.x hbeside :), (congrArg State.p hbeside :), (congrArg State.stg hbeside :),
      (congrArg State.stgLen hbeside :), (congrArg State.txt hbeside :), (congrArg State.txtLen hbeside :),
      (congrArg State.level hbeside :), (congrArg State.scoreN hbeside :), (congrArg State.scoreF hbeside :),
      (congrArg State.blk hbeside :)⟩

end Sys2Proof.Machine
end

section
/-! SUPPORT. The causes a command can raise (rules R320, R335, R341): a function without a state raises its own, and a
rule those of its checks and of the functions it calls. That the bracketed causes of the table cannot come up is what
the supplied tables and the capacities decide. -/

namespace Sys2Proof.Machine

open Sys2Proof.Reference

/-- A rule completes or raises one of some causes. -/
def RaisesOnly {α : Type} (causes : List Cause) : Except Stop α → Prop
  | .ok _ => True
  | .error e => e.cause ∈ causes

section
variable {α β : Type} {causes : List Cause} {s : State}

theorem RaisesOnly.error_of {r : Except Stop α} {e : Stop} (h : RaisesOnly causes r) (hr : r = .error e) :
    e.cause ∈ causes := by
  subst hr
  exact h

theorem RaisesOnly.ok_of {r : Except Stop α} {a : α} (h : r = .ok a) : RaisesOnly causes r := by
  subst h
  trivial

theorem RaisesOnly.raise_of {r : Except Stop α} {c : Cause} {info : Int} (h : r = raise s c info)
    (hc : c ∈ causes) : RaisesOnly causes r := by
  subst h
  exact hc

theorem RaisesOnly.mono {causes' : List Cause} {r : Except Stop α} (h : RaisesOnly causes r)
    (hsub : causes ⊆ causes') : RaisesOnly causes' r := by
  cases r with
  | ok a => trivial
  | error e => exact hsub h

/-- Two parts of a rule, one after the other. -/
theorem RaisesOnly.bind {r : Except Stop α} {f : α → Except Stop β} (hr : RaisesOnly causes r)
    (hf : ∀ a, r = .ok a → RaisesOnly causes (f a)) : RaisesOnly causes (r >>= f) := by
  cases r with
  | ok a => exact hf a rfl
  | error e => exact hr

/-- A check before the rest of a rule. -/
theorem RaisesOnly.check {c : Prop} [Decidable c] {cause : Cause} {info : Int} {r : Except Stop α}
    (hc : cause ∈ causes) (hr : ¬ c → RaisesOnly causes r) :
    RaisesOnly causes (if c then raise s cause info else r) := by
  split
  next => exact hc
  next h => exact hr h

/-- A function without a state, in a rule. -/
theorem RaisesOnly.liftRaise {r : Except Raise α} (h : ∀ e, r = .error e → e.cause ∈ causes) :
    RaisesOnly causes (liftRaise s r) := by
  cases r with
  | ok a => trivial
  | error e => exact h e rfl

end

/-! ## The functions without a state -/

theorem glog_cause {n : Int} {e : Raise} (h : glog n = .error e) : e.cause ∈ [Cause.logZero, .operandRange] := by
  obtain ⟨-, hg⟩ | ⟨-, hg⟩ | ⟨-, -, k, -, -, hg⟩ := glog_cases n <;> cases hg.symm.trans h <;> simp

theorem pmul_cause {a b : Poly} {e : Raise} (h : pmul a b = .error e) :
    e.cause ∈ [Cause.operandRange, .logZero] := by
  by_cases hempty : a = [] ∨ b = []
  · cases (pmul_empty hempty).symm.trans h
    simp
  · obtain ⟨ha, hb⟩ := not_or.mp hempty
    by_cases hzero : 0 ∈ a ∨ 0 ∈ b
    · cases (pmul_zero ha hb hzero).symm.trans h
      simp
    · obtain ⟨ha0, hb0⟩ := not_or.mp hzero
      cases (pmul_ok ha hb ha0 hb0).symm.trans h

theorem pmod_cause {a b : Poly} {e : Raise} (h : pmod a b = .error e) :
    e.cause ∈ [Cause.operandRange, .logZero] := by
  by_cases hb : b = []
  · cases (hb ▸ pmod_empty a).symm.trans h
    simp
  · obtain hlt | hle := Nat.lt_or_ge a.length b.length
    · cases (pmod_of_length_lt hlt).symm.trans h
    · by_cases hzero : a.head? = some 0 ∨ 0 ∈ b
      · cases (pmod_zero hb hle hzero).symm.trans h
        simp
      · obtain ⟨ha0, hb0⟩ := not_or.mp hzero
        obtain ⟨r, q, hr, -⟩ := pmod_ok hb hb0 hle ha0
        cases hr.symm.trans h

theorem selectVersion_cause {level : Nat} {n : Int} {e : Raise} (hl : level < 4)
    (h : selectVersion rom level n = .error e) : e.cause ∈ [Cause.operandRange, .tooLongData] := by
  by_cases h0 : n < 0
  · cases (selectVersion_negative h0).symm.trans h
    simp
  · by_cases hfits : n ≤ capacity 40 level
    · obtain ⟨v, -, hv⟩ := selectVersion_ok (Int.not_lt.mp h0) hfits
      cases hv.symm.trans h
    · cases (selectVersion_too_long hl (Int.not_le.mp hfits)).symm.trans h
      simp

theorem resolvedVersion_cause {text : List CodeUnit} {level : BitVec 2} {version : BitVec 8} {e : Raise}
    (h : resolvedVersion text level version = .error e) : e.cause ∈ [Cause.tooLongData, .tableEntryMissing] := by
  by_cases h0 : version = 0
  · subst h0
    by_cases hlen : (segEnc text).length ≤ capacity 40 level.toNat
    · obtain ⟨v, -, hv⟩ := resolvedVersion_zero hlen
      cases hv.symm.trans h
    · cases (resolvedVersion_too_long (Nat.not_le.mp hlen)).symm.trans h
      simp
  · by_cases hv : 1 ≤ version.toNat ∧ version.toNat ≤ 40
    · cases (resolvedVersion_override h0 hv).symm.trans h
    · cases (resolvedVersion_outside h0 hv).symm.trans h
      simp

/-! ## The rules that look a version up -/

theorem dataChunks_length (blocks : List RsBlock) (buffer : List Byte) :
    (dataChunks blocks buffer).length = blocks.length := by
  induction blocks generalizing buffer with
  | nil => rfl
  | cons b bs ih => rw [dataChunks, List.length_cons, List.length_cons, ih]

/-- Valid blocks have a stream, whatever bytes they are given (rule R185). -/
theorem createBytes_completes {blocks : List RsBlock} (hb : ∀ b ∈ blocks, b.valid) (buffer : List Byte) :
    ∃ out, createBytes buffer blocks = .ok out := by
  obtain ⟨checks, hchecks, -⟩ := ecChunks_ok (dataChunks_length blocks buffer) hb
  exact ⟨_, by rw [createBytes, hchecks]; rfl⟩

/-- The blocks of a version of the tables fit BLK (rule R187(a)). -/
theorem bodyRsBlocks_inside {s : State} (hv : versionLegal s) :
    bodyRsBlocks rom s = .ok { s with blk := blocksOf s.version.toNat s.level.toNat } := by
  obtain ⟨-, -, -, -, -, hfits, -⟩ := cellValid hv s.level.isLt
  rw [bodyRsBlocks, State.blocks, blocksOf, getRSBlocks_inside hv s.level.isLt]
  exact if_neg (Nat.not_lt.mpr hfits)

theorem bodyRsBlocks_outside {s : State} (hv : ¬ versionLegal s) :
    bodyRsBlocks rom s = raise s .tableEntryMissing (missingIndex s) := by
  rw [bodyRsBlocks, State.blocks, getRSBlocks_outside _ hv]
  rfl

theorem bodyDataFin_raisesOnly (s : State) : RaisesOnly [.tableEntryMissing, .dataOverflow] (bodyDataFin rom s) := by
  by_cases hv : versionLegal s
  · rw [bodyDataFin_inside hv]
    refine .bind ?_ fun _ _ => trivial
    by_cases hlen : s.bb.len ≤ 8 * dataWords s
    · rw [dataFinish_ok hlen (dataTotal_le hv s.level.isLt)]
      trivial
    · rw [dataFinish, if_pos (by omega)]
      exact .raise_of rfl (by simp)
  · exact .raise_of (bodyDataFin_outside hv) (by decide)

theorem bodyRsEnc_raisesOnly (s : State) : RaisesOnly [.tableEntryMissing, .sequenceError] (bodyRsEnc rom s) := by
  by_cases hv : versionLegal s
  · by_cases hlen : s.bb.len = 8 * dataWords s
    · obtain ⟨out, hout⟩ := createBytes_completes
        (getRSBlocks_valid (getRSBlocks_eq_blocksOf hv s.level.isLt)) (s.bb.bytes.take (dataWords s))
      exact .ok_of (bodyRsEnc_of_len_eq hv hlen hout)
    · exact .raise_of (bodyRsEnc_of_len_ne hv hlen) (by decide)
  · exact .raise_of (bodyRsEnc_outside hv) (by decide)

/-- The generator of a count of 8 bits fits the register (rule R183). -/
theorem bodyRsGen_ok (pd : PReg) (ec : BitVec 8) (s : State) :
    bodyRsGen pd ec s = .ok (s.writeP pd (generatorPoly ec.toNat)) := by
  have hec := ec.isLt
  have hlen := generatorPoly_length ec.toNat
  have hmax : Config.polyMax = 256 := rfl
  obtain ⟨-, hstore⟩ | ⟨hlong, -⟩ := storePoly_cases pd (generatorPoly ec.toNat) s
  · rw [bodyRsGen, zext8, generator_ok (by omega)]
    exact hstore
  · omega

/-! ## The composite commands -/

/-- `MAKEIMPL` with a pattern and a version of the tables can only find its data too long (rules R270, R276). -/
theorem bodyMakeimpl_raisesOnly {s : State} (hseg : s.segLen ≤ Config.segMax) (test : Bool) (mask : BitVec 4) :
    RaisesOnly [.maskPattern, .tableEntryMissing, .dataOverflow] (bodyMakeimpl rom test mask s) := by
  by_cases hm : mask.toNat < 8
  · rw [← maskBits_of_lt hm]
    by_cases hv : versionLegal s
    · cases hd : s.dcValid with
      | true =>
        obtain ⟨bb, cw, hbody, -⟩ := bodyMakeimpl_completes hv hseg (.inl hd) test ⟨mask.toNat, hm⟩
        exact .ok_of hbody
      | false =>
        obtain ⟨-, hbody⟩ | ⟨-, u, -, hbody⟩ := bodyMakeimpl_of_invalid hv hseg hd test ⟨mask.toNat, hm⟩
        · exact .ok_of hbody
        · exact .raise_of hbody (by decide)
    · exact .raise_of (bodyMakeimpl_outside hv test _) (by decide)
  · refine .raise_of (c := .maskPattern) (s := s) (info := mask.toNat) ?_ (by decide)
    rw [bodyMakeimpl, maskOperand_illegal (Nat.not_lt.mp hm)]
    rfl

/-- `MAKE` finds no version, or its data too long for an override (rules R281, R288). -/
theorem bodyMake_raisesOnly {s : State} (htxt : s.txtLen ≤ Config.txtMax) :
    RaisesOnly [.tooLongData, .tableEntryMissing, .dataOverflow] (bodyMake rom s) := by
  have hlen := segEnc_fits htxt
  cases hres : resolvedVersion s.text s.level s.version with
  | error e =>
    exact (RaisesOnly.raise_of (bodyMake_of_no_version hlen hres) (resolvedVersion_cause hres)).mono (by decide)
  | ok v =>
    obtain ⟨-, q, -, hbody⟩ | ⟨-, u, -, hbody⟩ := bodyMake_cases hlen hres
    · exact .ok_of hbody
    · exact .raise_of hbody (by decide)

/-! ## Every command -/

/-- The rule of a command raises a cause of its row (rule R341). -/
theorem bodyOf_raisesOnly {s : State} (hs : s.buffersBounded) (i : Instr) : RaisesOnly i.causes (bodyOf i s) := by
  obtain ⟨-, htxt, hseg, -⟩ := hs
  cases i <;> simp only [Instr.causes, bodyOf]
  case csrr =>
    unfold bodyCsrr
    split
    · trivial
    · exact .raise_of rfl (by decide)
  case csrw csr ra =>
    obtain ⟨t, -, h⟩ | ⟨-, h⟩ | ⟨-, h⟩ := bodyCsrw_cases csr ra s
    · exact .ok_of h
    · exact .raise_of h (by decide)
    · exact .raise_of h (by decide)
  case gfLog => exact .bind (.liftRaise fun _ => glog_cause) fun _ _ => trivial
  case polyNew => exact .check (by decide) fun _ => trivial
  case polyMul =>
    exact .bind ((RaisesOnly.liftRaise fun _ => pmul_cause).mono (by decide)) fun _ _ =>
      .check (by decide) fun _ => trivial
  case polyMod => exact .bind (.liftRaise fun _ => pmod_cause) fun _ _ => trivial
  case polyGet => exact .check (by decide) fun _ => trivial
  case bbPut ra rb =>
    obtain ⟨-, h⟩ | ⟨-, -, -, h⟩ | ⟨-, -, -, h⟩ := bodyBbPut_cases ra rb s
    · exact .raise_of h (by decide)
    · exact .raise_of h (by decide)
    · exact .ok_of h
  case bbPutbit ra =>
    obtain ⟨-, h⟩ | ⟨-, h⟩ := bodyBbPutbit_cases ra s
    · exact .ok_of h
    · exact .raise_of h (by decide)
  case bbGet => exact .check (by decide) fun _ => trivial
  case segEnc => exact .ok_of (if_neg (Nat.not_lt.mpr (segEnc_fits htxt)))
  case segWrite =>
    obtain ⟨-, h⟩ | ⟨-, h⟩ := bodySegWrite_cases s
    · exact .ok_of h
    · exact .raise_of h (by decide)
  case dataSeg =>
    obtain ⟨-, h⟩ | ⟨-, -, h⟩ | ⟨-, -, h⟩ := bodyDataSeg_cases s
    · exact .raise_of h (by decide)
    · exact .raise_of h (by decide)
    · exact .ok_of h
  case dataFin => exact bodyDataFin_raisesOnly s
  case verSel => exact .bind (.liftRaise fun _ => selectVersion_cause s.level.isLt) fun _ _ => trivial
  case rsBlocks =>
    by_cases hv : versionLegal s
    · exact .ok_of (bodyRsBlocks_inside hv)
    · exact .raise_of (bodyRsBlocks_outside hv) (by decide)
  case rsGen pd ec => exact .ok_of (bodyRsGen_ok pd ec s)
  case rsEnc => exact bodyRsEnc_raisesOnly s
  case bchFmt => exact .bind (.check (by decide) fun _ => trivial) fun _ _ => trivial
  case bchVer => exact .bind (.check (by decide) fun _ => trivial) fun _ _ => trivial
  case bchDigit => exact .check (by decide) fun _ => trivial
  case maskTst rd ra rb rc =>
    obtain ⟨-, h⟩ | ⟨-, -, h⟩ | ⟨-, -, -, h⟩ | ⟨p, i, j, -, -, -, -, -, h⟩ := bodyMaskTst_cases rd ra rb rc s
    · exact .raise_of h (by decide)
    · exact .raise_of h (by decide)
    · exact .raise_of h (by decide)
    · exact .ok_of h
  case score => exact .check (by decide) fun _ => trivial
  case gridInit => exact .check (by decide) fun _ => trivial
  case gridStruct test mask =>
    obtain ⟨-, h⟩ | ⟨-, -, h⟩ | ⟨_, -, -, -, h⟩ := bodyGridStruct_cases test mask s
    · exact .raise_of h (by decide)
    · exact .raise_of h (by decide)
    · exact .ok_of h
  case gridMap mask =>
    obtain ⟨-, h⟩ | ⟨-, -, h⟩ | ⟨-, -, -, -, h⟩ := bodyGridMap_cases mask s
    · exact .raise_of h (by decide)
    · exact .raise_of h (by decide)
    · exact .ok_of h
  case gridFin => exact .check (by decide) fun _ => .check (by decide) fun _ => trivial
  case makeimpl test mask => exact bodyMakeimpl_raisesOnly hseg test mask
  case make => exact bodyMake_raisesOnly htxt
  case qDark =>
    exact .check (by decide) fun _ => .check (by decide) fun _ => .check (by decide) fun _ => trivial
  all_goals trivial

/-- Settles O11: the cause that fault entry records is the one its command's rule raised. -/
theorem commandsRaiseOnlyTheirListedCauses : Obligations.CommandsRaiseOnlyTheirListedCauses := by
  unfold Obligations.CommandsRaiseOnlyTheirListedCauses
  intro i s t hs hf h ht
  obtain ⟨e, hb, rfl⟩ := error_of_exec hf h ht
  exact ⟨e.cause, (bodyOf_raisesOnly hs i).error_of hb, rfl⟩

end Sys2Proof.Machine
end
